-- ==== Sys2Proof/Word.lean ====
section
/-! DEFINITION. The unit of every frame, buffer and field: the byte (00_scope.md R9, R10), and text as a list of
byte values (R11). -/

namespace Sys2Proof

/-- A byte, bit 0 the least significant (R10). Every width of this hardware is 8 bits unless stated (R9). -/
abbrev Byte := BitVec 8

/-- A text is a list of ASCII byte values (R11). -/
abbrev Text := List Byte

end Sys2Proof
end

