-- ==== Sys2Proof/Config.lean ====
section
/-! DEFINITION. What is fixed for the life of the model (00_scope.md R7, R8), and the free values: the answers of the
transport (44_session.md R221) and the bytes of the padding source (43_interpreter.md R207). The values this
hardware gives the fields stand in Machine/Params.lean. -/

namespace Sys2Proof

/-- The parameters of R7, one field each. Every rule reads its constants from here. -/
structure Config where
  /-- `CAP`: the most bytes the frame buffer holds, the type tag counted (D6). -/
  cap : Nat
  /-- `FEND`: the delimiter byte. -/
  fend : Byte
  /-- `FESC`: the escape byte. -/
  fesc : Byte
  /-- `TFEND`: stands for a data byte `FEND` after `FESC`. -/
  tfend : Byte
  /-- `TFESC`: stands for a data byte `FESC` after `FESC`. -/
  tfesc : Byte
  /-- `DATA_TAG`: the type tag of a data frame. -/
  dataTag : Byte
  /-- `CTRL_UI`: the control byte BUILD writes. -/
  ctrlUi : Byte
  /-- `PID_NONE`: the PID byte BUILD writes. -/
  pidNone : Byte
  /-- `PAD_LO`: the lowest padding byte, inclusive. -/
  padLo : Byte
  /-- `PAD_HI`: the highest padding byte, inclusive. -/
  padHi : Byte
  /-- `MAX_READ`: the `maxBytes` argument of read, at least 1. -/
  maxRead : Nat
  /-- `CALL_LEN`: the characters of a callsign. -/
  callLen : Nat
  /-- `ADDR_LEN`: the bytes of one address field. -/
  addrLen : Nat
  deriving DecidableEq, Repr

/-- R8: the four framing constants are distinct. The model refuses a `Config` for which this is false. -/
def Config.distinct (c : Config) : Bool :=
  c.fend != c.fesc && c.fend != c.tfend && c.fend != c.tfesc &&
  c.fesc != c.tfend && c.fesc != c.tfesc && c.tfend != c.tfesc

/-- What the transport may answer to a read (R221). -/
inductive ReadAnswer where
  /-- `Data(bs)`: bytes received, in order. -/
  | data (bs : List Byte)
  /-- `Empty`: no data now. -/
  | empty
  /-- `ReadError`: fatal. -/
  | readError
  deriving DecidableEq, Repr, Inhabited

/-- What the transport may answer to a write (R221). -/
inductive WriteAnswer where
  /-- `Written(k)`: the transport accepted `k` bytes. -/
  | written (k : Nat)
  /-- `WriteError`: fatal. -/
  | writeError
  deriving DecidableEq, Repr, Inhabited

/-- R7, D21: `MAX_READ` is OPEN. The hardware's `MAX_READ` is one more than this, so it is at least 1. Nothing in the
model can evaluate it (log entry 1). -/
opaque Config.openMaxRead : Nat

/-- A free value: the transport's answer to the read that takes draw number `n` (R14, R221; log entry 6). -/
opaque Config.freeRead (n : Nat) : ReadAnswer

/-- A free value: the transport's answer to the write that takes draw number `n` (R14, R221; log entry 6). -/
opaque Config.freeWrite (n : Nat) : WriteAnswer

/-- A free value: the byte the padding source gives to draw number `n` (R14, R207; log entry 6). -/
opaque Config.freePad (n : Nat) : Byte

end Sys2Proof
end

