-- ==== Sys2Proof/Machine/Params.lean ====
section
/-! DEFINITION. The value this hardware gives each parameter of 00_scope.md R7. -/

namespace Sys2Proof.Machine

/-- R7, R61: the constants of this hardware. The framing constants and the data tag are values the spec takes from
general knowledge (G2, G3; log entry 2); `MAX_READ` is open (log entry 1). -/
def hw : Config where
  cap := 2000
  fend := 0xC0
  fesc := 0xDB
  tfend := 0xDC
  tfesc := 0xDD
  dataTag := 0x00
  ctrlUi := 0x03
  pidNone := 0xF0
  padLo := 0x20
  padHi := 0x7D
  maxRead := Config.openMaxRead + 1
  callLen := 6
  addrLen := 7

end Sys2Proof.Machine
end

