-- ==== Sys2Proof/Syntax.lean ====
section
/-! DEFINITION. The words a host gives the CODEC (30_encoding.md R80), the words of the three formats of
opcode_table.json, and the instructions, one constructor per row of that table. -/

namespace Sys2Proof

/-- R25: the framer's states. -/
inductive RxState where
  /-- Not in a frame. -/
  | idle
  /-- In a frame. -/
  | inFrame
  deriving DecidableEq, Repr

/-- R160: the types of a supervisory frame. -/
inductive SType where
  | rr | rnr | rej | srej | unknown
  deriving DecidableEq, Repr

/-- R160: the types of an unnumbered frame. -/
inductive UType where
  | sabme | sabm | disc | dm | ua | frmr | ui | xid | test | unknown
  deriving DecidableEq, Repr

/-- R160: the classification of a control byte. -/
inductive Kind where
  | i (ns nr : BitVec 3) (pf : BitVec 1)
  | s (stype : SType) (nr : BitVec 3) (pf : BitVec 1)
  | u (utype : UType) (pf : BitVec 1)
  deriving DecidableEq, Repr

/-- R80: the types of an operand. Operands are typed values passed with the code, not serialised bytes. -/
inductive Operand where
  | byte (b : Byte)
  | bytes (bs : List Byte)
  | text (t : Text)
  | bool (b : Bool)
  | nat (n : Nat)
  deriving DecidableEq, Repr

/-- R80: an operation as the host issues it: an 8-bit operation code and its operands. -/
structure HostWord where
  code : Byte
  args : List Operand
  deriving DecidableEq, Repr

/-- A word of opcode_table.json, told apart by the table's format column. The three formats are three spaces of
8-bit values that overlap (0x01 is OPEN, and as a control byte RR), so a word carries its format. Only a `hostop`
word stands in a host's program (R80). -/
inductive TableWord where
  /-- Format HOSTOP: an operation the host issues. -/
  | hostop (w : HostWord)
  /-- Format CTRL8: a control byte. -/
  | ctrl8 (c : Byte)
  /-- Format RXBYTE_CLASS: a byte that reaches the framer in state `st`. -/
  | rxClass (st : RxState) (b : Byte)
  deriving DecidableEq, Repr

/-- The instructions: one constructor per row of opcode_table.json, in the table's order. -/
inductive Instr where
  /-- OPEN (R220). -/
  | openSession
  /-- CLOSE (R222). -/
  | closeSession
  /-- RXBYTE (R100). -/
  | rxByte (b : Byte)
  /-- RXPOLL (R223); the transport's answer is a draw. -/
  | rxPoll
  /-- TXFRAME (R110); the transport's answer is a draw. -/
  | txFrame (tag : Byte) (p : List Byte)
  /-- AENC (R130). -/
  | aenc (call : Text) (cmd last : Bool)
  /-- ADEC (R136). -/
  | adec (a : List Byte) (rep : Bool)
  /-- CCLASS (R160). -/
  | cclass (c : Byte)
  /-- FINTERP (R190). -/
  | finterp (f : List Byte)
  /-- BUILD (R205); the padding bytes are draws. -/
  | build (dst src : Text) (lit : List Byte) (total : Nat)
  /-- RESERVED_OP (R81): an operation code outside R80's table. -/
  | reservedOp (code : Byte)
  /-- I (R162): a control byte `rrrpsss0`. -/
  | ctrlI (ns nr : BitVec 3) (pf : BitVec 1)
  /-- RR (R163): a control byte `rrrp0001`. -/
  | ctrlRR (nr : BitVec 3) (pf : BitVec 1)
  /-- RNR (R164): a control byte `rrrp0101`. -/
  | ctrlRNR (nr : BitVec 3) (pf : BitVec 1)
  /-- REJ (R165): a control byte `rrrp1001`. -/
  | ctrlREJ (nr : BitVec 3) (pf : BitVec 1)
  /-- SREJ (R166): a control byte `rrrp1101`. -/
  | ctrlSREJ (nr : BitVec 3) (pf : BitVec 1)
  /-- S_UNKNOWN (R167): a control byte `rrrpSS01` whose selector is none of the four named. -/
  | ctrlSUnknown (nr : BitVec 3) (pf : BitVec 1) (ss : BitVec 2)
  /-- SABME (R168). -/
  | ctrlSABME (pf : BitVec 1)
  /-- SABM (R169). -/
  | ctrlSABM (pf : BitVec 1)
  /-- DISC (R170). -/
  | ctrlDISC (pf : BitVec 1)
  /-- DM (R171). -/
  | ctrlDM (pf : BitVec 1)
  /-- UA (R172). -/
  | ctrlUA (pf : BitVec 1)
  /-- FRMR (R173). -/
  | ctrlFRMR (pf : BitVec 1)
  /-- UI (R174). -/
  | ctrlUI (pf : BitVec 1)
  /-- XID (R175). -/
  | ctrlXID (pf : BitVec 1)
  /-- TEST (R176). -/
  | ctrlTEST (pf : BitVec 1)
  /-- U_UNKNOWN (R177): a control byte `MMMpMM11` whose selector is none of the nine named. -/
  | ctrlUUnknown (mHi : BitVec 3) (pf : BitVec 1) (mLo : BitVec 2)
  /-- RX_IDLE_FEND (R102): RXBYTE in `Idle`, `FEND`. -/
  | rxIdleFend
  /-- RX_IDLE_OTHER (R103): RXBYTE in `Idle`, any byte but `FEND`. -/
  | rxIdleOther (b : Byte)
  /-- RX_INFRAME_FEND (R104): RXBYTE in `InFrame`, `FEND`. -/
  | rxInFrameFend
  /-- RX_INFRAME_FESC (R105): RXBYTE in `InFrame`, `FESC`. -/
  | rxInFrameFesc
  /-- RX_INFRAME_TFEND (R106): RXBYTE in `InFrame`, `TFEND`. -/
  | rxInFrameTfend
  /-- RX_INFRAME_TFESC (R107): RXBYTE in `InFrame`, `TFESC`. -/
  | rxInFrameTfesc
  /-- RX_INFRAME_OTHER (R108): RXBYTE in `InFrame`, a byte of class OTHER. -/
  | rxInFrameOther (b : Byte)
  deriving DecidableEq, Repr

end Sys2Proof
end

