-- ==== Sys2Proof/Machine/Operands.lean ====
section
/-! DEFINITION. The fields of every operand form: byte classes of the framer (R101), the control byte's fields and
selectors (R68 to R71), the address field's seventh byte (R66), decimal text (R11, R17), and the operation codes
(R80, R81). -/

namespace Sys2Proof.Machine

/-- R101: the byte classes the framer distinguishes. -/
inductive ByteClass where
  | fend | fesc | tfend | tfesc | other
  deriving DecidableEq, Repr

/-- R101. The classes partition the byte values when the four constants are distinct (R8). -/
def classOf (c : Config) (b : Byte) : ByteClass :=
  if b = c.fend then .fend
  else if b = c.fesc then .fesc
  else if b = c.tfend then .tfend
  else if b = c.tfesc then .tfesc
  else .other

/-! ## The control byte -/

/-- R69: N(S) = `c[3:1]`. -/
def fieldNs (c : Byte) : BitVec 3 := c.extractLsb' 1 3

/-- R69: N(R) = `c[7:5]`. -/
def fieldNr (c : Byte) : BitVec 3 := c.extractLsb' 5 3

/-- R69: P/F = `c[4]`. -/
def fieldPf (c : Byte) : BitVec 1 := c.extractLsb' 4 1

/-- R69: the S selector, `c & 0x0F`. -/
def sSelector (c : Byte) : Byte := c &&& 0x0F

/-- R69: the U selector, `c & 0xEF`. -/
def uSelector (c : Byte) : Byte := c &&& 0xEF

/-- R70: the selectors of the named S types. -/
def selRR : Byte := 0x01
/-- R70. -/
def selRNR : Byte := 0x05
/-- R70. -/
def selREJ : Byte := 0x09
/-- R70. -/
def selSREJ : Byte := 0x0D

/-- R71: the selectors of the named U types. -/
def selSABME : Byte := 0x6F
/-- R71. -/
def selSABM : Byte := 0x2F
/-- R71. -/
def selDISC : Byte := 0x43
/-- R71. -/
def selDM : Byte := 0x0F
/-- R71. -/
def selUA : Byte := 0x63
/-- R71. -/
def selFRMR : Byte := 0x87
/-- R71. -/
def selUI : Byte := 0x03
/-- R71. -/
def selXID : Byte := 0xAF
/-- R71. -/
def selTEST : Byte := 0xE3

/-- R163 to R167: the S type a selector names. -/
def sTypeOf (sel : Byte) : SType :=
  if sel = selRR then .rr
  else if sel = selRNR then .rnr
  else if sel = selREJ then .rej
  else if sel = selSREJ then .srej
  else .unknown

/-- R168 to R177: the U type a selector names. -/
def uTypeOf (sel : Byte) : UType :=
  if sel = selSABME then .sabme
  else if sel = selSABM then .sabm
  else if sel = selDISC then .disc
  else if sel = selDM then .dm
  else if sel = selUA then .ua
  else if sel = selFRMR then .frmr
  else if sel = selUI then .ui
  else if sel = selXID then .xid
  else if sel = selTEST then .test
  else .unknown

/-- R161: the one classification function, evaluated in the rule's order. -/
def classify (c : Byte) : Kind :=
  if c.getLsbD 0 = false then .i (fieldNs c) (fieldNr c) (fieldPf c)
  else if c.getLsbD 1 = false then .s (sTypeOf (sSelector c)) (fieldNr c) (fieldPf c)
  else .u (uTypeOf (uSelector c)) (fieldPf c)

/-- R178: true exactly for I and UI. -/
def carriesPayload : Kind → Bool
  | .i _ _ _ => true
  | .u .ui _ => true
  | .s _ _ _ => false
  | .u _ _ => false

/-- R68: the I control byte `rrrpsss0`. -/
def iByte (ns nr : BitVec 3) (pf : BitVec 1) : Byte :=
  (nr.zeroExtend 8 <<< 5) ||| (pf.zeroExtend 8 <<< 4) ||| (ns.zeroExtend 8 <<< 1)

/-- R68: an S control byte: `N(R)`, P/F and a selector. -/
def sByte (sel : Byte) (nr : BitVec 3) (pf : BitVec 1) : Byte :=
  (nr.zeroExtend 8 <<< 5) ||| (pf.zeroExtend 8 <<< 4) ||| sel

/-- R68: a U control byte: a selector with P/F put in. -/
def uByte (sel : Byte) (pf : BitVec 1) : Byte := (pf.zeroExtend 8 <<< 4) ||| sel

/-- The selector of `rrrpSS01` with `SS` = `ss` (row S_UNKNOWN). -/
def sSelOfBits (ss : BitVec 2) : Byte := (ss.zeroExtend 8 <<< 2) ||| 0x01

/-- The selector of `MMMpMM11` (row U_UNKNOWN). -/
def uSelOfBits (mHi : BitVec 3) (mLo : BitVec 2) : Byte :=
  (mHi.zeroExtend 8 <<< 5) ||| (mLo.zeroExtend 8 <<< 2) ||| 0x03

/-! ## The address field -/

/-- R138: the SSID of a seventh byte, `(a[6] >> 1) & 0x0F`. -/
def ssidOf (b7 : Byte) : Nat := ((b7 >>> 1) &&& 0x0F).toNat

/-- R139, R141: bit 7 of a seventh byte: the C bit of a destination or source, the H bit of a repeater. -/
def topBit (b7 : Byte) : Bool := b7.getLsbD 7

/-- R140: more address fields follow exactly when bit 0 is clear. -/
def moreFollows (b7 : Byte) : Bool := (b7 &&& 0x01) == 0

/-- R134: the seventh byte. -/
def seventhByte (ssid : Nat) (cmd last : Bool) : Byte :=
  (if cmd then 0x80 else 0x00) ||| 0x60 ||| (BitVec.ofNat 8 ssid <<< 1) ||| (if last then 0x01 else 0x00)

/-! ## Decimal text -/

/-- The ASCII digit of `d`, for `d` < 10. -/
def digit (d : Nat) : Byte := BitVec.ofNat 8 (0x30 + d)

/-- The decimal digits of `n`, most significant first, given `fuel` > `n` / 10. -/
def decFuel : Nat → Nat → Text
  | 0, n => [digit (n % 10)]
  | fuel + 1, n => if n < 10 then [digit n] else decFuel fuel (n / 10) ++ [digit (n % 10)]

/-- R11: `dec(n)`, the shortest decimal rendering of a natural, no leading zeros. -/
def dec (n : Nat) : Text := decFuel n n

/-- True of the ASCII digits, 0x30..0x39 (R131). -/
def isDigit (b : Byte) : Bool := decide (0x30 ≤ b.toNat) && decide (b.toNat ≤ 0x39)

/-- R17 (4): `value(sfx)`, the decimal value of a digit string, with no bound on the digit count. -/
def value (sfx : Text) : Nat := sfx.foldl (fun acc b => 10 * acc + (b.toNat - 0x30)) 0

/-! ## Operation codes -/

/-- R80: the ten operation codes, in the rule's order. -/
def hostCodes : List Byte := [0x01, 0x02, 0x10, 0x11, 0x20, 0x30, 0x31, 0x40, 0x41, 0x50]

/-- R81: every other code is reserved. -/
def isReserved (code : Byte) : Bool := !hostCodes.contains code

end Sys2Proof.Machine
end

