-- ==== Sys2Proof/WellFormed.lean ====
section
/-! DEFINITION. Which instructions a row of opcode_table.json gives: the operand shapes of R81 and the match
conditions of the rows. -/

namespace Sys2Proof

open Machine

/-- The shape and match conditions of each row. -/
def wellFormed (c : Config) : Instr → Bool
  | .openSession => true
  | .closeSession => true
  | .rxByte _ => true
  | .rxPoll => true
  | .txFrame _ _ => true
  | .aenc _ _ _ => true
  | .adec a _ => a.length == c.addrLen          -- R81: any other length is BadOperand
  | .cclass _ => true
  | .finterp _ => true
  | .build _ _ _ _ => true
  | .reservedOp code => isReserved code          -- R81
  | .ctrlI _ _ _ => true
  | .ctrlRR _ _ => true
  | .ctrlRNR _ _ => true
  | .ctrlREJ _ _ => true
  | .ctrlSREJ _ _ => true
  | .ctrlSUnknown _ _ ss => sTypeOf (sSelOfBits ss) == .unknown        -- R167
  | .ctrlSABME _ => true
  | .ctrlSABM _ => true
  | .ctrlDISC _ => true
  | .ctrlDM _ => true
  | .ctrlUA _ => true
  | .ctrlFRMR _ => true
  | .ctrlUI _ => true
  | .ctrlXID _ => true
  | .ctrlTEST _ => true
  | .ctrlUUnknown mHi _ mLo => uTypeOf (uSelOfBits mHi mLo) == .unknown  -- R177
  | .rxIdleFend => true
  | .rxIdleOther b => classOf c b != .fend        -- R103
  | .rxInFrameFend => true
  | .rxInFrameFesc => true
  | .rxInFrameTfend => true
  | .rxInFrameTfesc => true
  | .rxInFrameOther b => classOf c b == .other    -- R108

end Sys2Proof
end

