-- ==== Sys2Proof/Decode.lean ====
section
/-! DEFINITION. Decoding of the three formats of opcode_table.json, total, rejecting by name, and the encoder, both
written from 30_encoding.md R68 to R71, R80 and R81 and 40_framer.md R101 to R108. -/

namespace Sys2Proof

open Machine

/-- Why a word is no instruction. -/
inductive DecodeError where
  /-- R81: an operand of the wrong type or shape. -/
  | badOperand
  deriving DecidableEq, Repr

/-- R80, R81: a host operation. A reserved code gives RESERVED_OP whatever its operands (R248: the code is checked
first). -/
def decodeHost (c : Config) (w : HostWord) : Except DecodeError Instr :=
  if w.code = 0x01 then
    match w.args with
    | [] => .ok .openSession
    | _ => .error .badOperand
  else if w.code = 0x02 then
    match w.args with
    | [] => .ok .closeSession
    | _ => .error .badOperand
  else if w.code = 0x10 then
    match w.args with
    | [.byte b] => .ok (.rxByte b)
    | _ => .error .badOperand
  else if w.code = 0x11 then
    match w.args with
    | [] => .ok .rxPoll
    | _ => .error .badOperand
  else if w.code = 0x20 then
    match w.args with
    | [.byte tag, .bytes p] => .ok (.txFrame tag p)
    | _ => .error .badOperand
  else if w.code = 0x30 then
    match w.args with
    | [.text call, .bool cmd, .bool last] => .ok (.aenc call cmd last)
    | _ => .error .badOperand
  else if w.code = 0x31 then
    match w.args with
    | [.bytes a, .bool rep] => if a.length = c.addrLen then .ok (.adec a rep) else .error .badOperand
    | _ => .error .badOperand
  else if w.code = 0x40 then
    match w.args with
    | [.byte b] => .ok (.cclass b)
    | _ => .error .badOperand
  else if w.code = 0x41 then
    match w.args with
    | [.bytes f] => .ok (.finterp f)
    | _ => .error .badOperand
  else if w.code = 0x50 then
    match w.args with
    | [.text dst, .text src, .bytes lit, .nat total] => .ok (.build dst src lit total)
    | _ => .error .badOperand
  else .ok (.reservedOp w.code)

/-- R161 to R177: the row of a control byte. Every byte has exactly one. -/
def decodeCtrl (c : Byte) : Instr :=
  if c.getLsbD 0 = false then .ctrlI (fieldNs c) (fieldNr c) (fieldPf c)
  else if c.getLsbD 1 = false then
    match sTypeOf (sSelector c) with
    | .rr => .ctrlRR (fieldNr c) (fieldPf c)
    | .rnr => .ctrlRNR (fieldNr c) (fieldPf c)
    | .rej => .ctrlREJ (fieldNr c) (fieldPf c)
    | .srej => .ctrlSREJ (fieldNr c) (fieldPf c)
    | .unknown => .ctrlSUnknown (fieldNr c) (fieldPf c) (c.extractLsb' 2 2)
  else
    match uTypeOf (uSelector c) with
    | .sabme => .ctrlSABME (fieldPf c)
    | .sabm => .ctrlSABM (fieldPf c)
    | .disc => .ctrlDISC (fieldPf c)
    | .dm => .ctrlDM (fieldPf c)
    | .ua => .ctrlUA (fieldPf c)
    | .frmr => .ctrlFRMR (fieldPf c)
    | .ui => .ctrlUI (fieldPf c)
    | .xid => .ctrlXID (fieldPf c)
    | .test => .ctrlTEST (fieldPf c)
    | .unknown => .ctrlUUnknown (c.extractLsb' 5 3) (fieldPf c) (c.extractLsb' 2 2)

/-- R101 to R108: the transition row of a byte that reaches the framer in state `st`. -/
def decodeRx (c : Config) (st : RxState) (b : Byte) : Instr :=
  match st, classOf c b with
  | .idle, .fend => .rxIdleFend
  | .idle, .fesc => .rxIdleOther b
  | .idle, .tfend => .rxIdleOther b
  | .idle, .tfesc => .rxIdleOther b
  | .idle, .other => .rxIdleOther b
  | .inFrame, .fend => .rxInFrameFend
  | .inFrame, .fesc => .rxInFrameFesc
  | .inFrame, .tfend => .rxInFrameTfend
  | .inFrame, .tfesc => .rxInFrameTfesc
  | .inFrame, .other => .rxInFrameOther b

/-- The decoder of opcode_table.json. -/
def decode (c : Config) : TableWord → Except DecodeError Instr
  | .hostop w => decodeHost c w
  | .ctrl8 b => .ok (decodeCtrl b)
  | .rxClass st b => .ok (decodeRx c st b)

/-- The word of an instruction, from the same tables. A RESERVED_OP word has no operands (R81 gives it none). -/
def encode (c : Config) : Instr → TableWord
  | .openSession => .hostop ⟨0x01, []⟩
  | .closeSession => .hostop ⟨0x02, []⟩
  | .rxByte b => .hostop ⟨0x10, [.byte b]⟩
  | .rxPoll => .hostop ⟨0x11, []⟩
  | .txFrame tag p => .hostop ⟨0x20, [.byte tag, .bytes p]⟩
  | .aenc call cmd last => .hostop ⟨0x30, [.text call, .bool cmd, .bool last]⟩
  | .adec a rep => .hostop ⟨0x31, [.bytes a, .bool rep]⟩
  | .cclass b => .hostop ⟨0x40, [.byte b]⟩
  | .finterp f => .hostop ⟨0x41, [.bytes f]⟩
  | .build dst src lit total => .hostop ⟨0x50, [.text dst, .text src, .bytes lit, .nat total]⟩
  | .reservedOp code => .hostop ⟨code, []⟩
  | .ctrlI ns nr pf => .ctrl8 (iByte ns nr pf)
  | .ctrlRR nr pf => .ctrl8 (sByte selRR nr pf)
  | .ctrlRNR nr pf => .ctrl8 (sByte selRNR nr pf)
  | .ctrlREJ nr pf => .ctrl8 (sByte selREJ nr pf)
  | .ctrlSREJ nr pf => .ctrl8 (sByte selSREJ nr pf)
  | .ctrlSUnknown nr pf ss => .ctrl8 (sByte (sSelOfBits ss) nr pf)
  | .ctrlSABME pf => .ctrl8 (uByte selSABME pf)
  | .ctrlSABM pf => .ctrl8 (uByte selSABM pf)
  | .ctrlDISC pf => .ctrl8 (uByte selDISC pf)
  | .ctrlDM pf => .ctrl8 (uByte selDM pf)
  | .ctrlUA pf => .ctrl8 (uByte selUA pf)
  | .ctrlFRMR pf => .ctrl8 (uByte selFRMR pf)
  | .ctrlUI pf => .ctrl8 (uByte selUI pf)
  | .ctrlXID pf => .ctrl8 (uByte selXID pf)
  | .ctrlTEST pf => .ctrl8 (uByte selTEST pf)
  | .ctrlUUnknown mHi pf mLo => .ctrl8 (uByte (uSelOfBits mHi mLo) pf)
  | .rxIdleFend => .rxClass .idle c.fend
  | .rxIdleOther b => .rxClass .idle b
  | .rxInFrameFend => .rxClass .inFrame c.fend
  | .rxInFrameFesc => .rxClass .inFrame c.fesc
  | .rxInFrameTfend => .rxClass .inFrame c.tfend
  | .rxInFrameTfesc => .rxClass .inFrame c.tfesc
  | .rxInFrameOther b => .rxClass .inFrame b

/-- The format column of opcode_table.json. -/
inductive Format where
  | hostop | ctrl8 | rxClass
  deriving DecidableEq, Repr

/-- A row of opcode_table.json: its format, and the code bits it fixes. -/
structure TableRow where
  format : Format
  mask : Byte
  value : Byte
  deriving DecidableEq, Repr

/-- The rows of opcode_table.json as the file gives them (columns format, mask, match), one for each instruction whose
match is a value. The other three match by a phrase: RESERVED_OP "any code not listed", RX_IDLE_OTHER "not FEND",
RX_INFRAME_OTHER "not FEND/FESC/TFEND/TFESC". -/
def tableRow : Instr → Option TableRow
  | .openSession => some ⟨.hostop, 0xFF, 0x01⟩
  | .closeSession => some ⟨.hostop, 0xFF, 0x02⟩
  | .rxByte _ => some ⟨.hostop, 0xFF, 0x10⟩
  | .rxPoll => some ⟨.hostop, 0xFF, 0x11⟩
  | .txFrame _ _ => some ⟨.hostop, 0xFF, 0x20⟩
  | .aenc _ _ _ => some ⟨.hostop, 0xFF, 0x30⟩
  | .adec _ _ => some ⟨.hostop, 0xFF, 0x31⟩
  | .cclass _ => some ⟨.hostop, 0xFF, 0x40⟩
  | .finterp _ => some ⟨.hostop, 0xFF, 0x41⟩
  | .build _ _ _ _ => some ⟨.hostop, 0xFF, 0x50⟩
  | .reservedOp _ => none
  | .ctrlI _ _ _ => some ⟨.ctrl8, 0x01, 0x00⟩
  | .ctrlRR _ _ => some ⟨.ctrl8, 0x0F, 0x01⟩
  | .ctrlRNR _ _ => some ⟨.ctrl8, 0x0F, 0x05⟩
  | .ctrlREJ _ _ => some ⟨.ctrl8, 0x0F, 0x09⟩
  | .ctrlSREJ _ _ => some ⟨.ctrl8, 0x0F, 0x0D⟩
  | .ctrlSUnknown _ _ _ => some ⟨.ctrl8, 0x03, 0x01⟩
  | .ctrlSABME _ => some ⟨.ctrl8, 0xEF, 0x6F⟩
  | .ctrlSABM _ => some ⟨.ctrl8, 0xEF, 0x2F⟩
  | .ctrlDISC _ => some ⟨.ctrl8, 0xEF, 0x43⟩
  | .ctrlDM _ => some ⟨.ctrl8, 0xEF, 0x0F⟩
  | .ctrlUA _ => some ⟨.ctrl8, 0xEF, 0x63⟩
  | .ctrlFRMR _ => some ⟨.ctrl8, 0xEF, 0x87⟩
  | .ctrlUI _ => some ⟨.ctrl8, 0xEF, 0x03⟩
  | .ctrlXID _ => some ⟨.ctrl8, 0xEF, 0xAF⟩
  | .ctrlTEST _ => some ⟨.ctrl8, 0xEF, 0xE3⟩
  | .ctrlUUnknown _ _ _ => some ⟨.ctrl8, 0x03, 0x03⟩
  | .rxIdleFend => some ⟨.rxClass, 0xFF, 0xC0⟩
  | .rxIdleOther _ => none
  | .rxInFrameFend => some ⟨.rxClass, 0xFF, 0xC0⟩
  | .rxInFrameFesc => some ⟨.rxClass, 0xFF, 0xDB⟩
  | .rxInFrameTfend => some ⟨.rxClass, 0xFF, 0xDC⟩
  | .rxInFrameTfesc => some ⟨.rxClass, 0xFF, 0xDD⟩
  | .rxInFrameOther _ => none

/-- The format of a word. -/
def formatOf : TableWord → Format
  | .hostop _ => .hostop
  | .ctrl8 _ => .ctrl8
  | .rxClass _ _ => .rxClass

/-- The code bits of a word. -/
def codeOf : TableWord → Byte
  | .hostop w => w.code
  | .ctrl8 b => b
  | .rxClass _ b => b

/-- A word fits a row: its format, and its code under the row's mask. -/
def TableRow.fits (r : TableRow) (w : TableWord) : Bool :=
  formatOf w == r.format && codeOf w &&& r.mask == r.value

/-- The operands of an operation code with every bit zero: zero bytes, empty lists, false, 0, and for ADEC seven zero
bytes (R80; log entry 9). -/
def zeroArgs (c : Config) (code : Byte) : List Operand :=
  if code = 0x10 then [.byte 0]
  else if code = 0x20 then [.byte 0, .bytes []]
  else if code = 0x30 then [.text [], .bool false, .bool false]
  else if code = 0x31 then [.bytes (List.replicate c.addrLen 0), .bool false]
  else if code = 0x40 then [.byte 0]
  else if code = 0x41 then [.bytes []]
  else if code = 0x50 then [.text [], .text [], .bytes [], .nat 0]
  else []

/-- The host word of a bare table word: an operation code with all-zero operands. A bare word carries no format, and
a program holds operation codes only (R6, R80), so it is read as one (log entry 9). -/
def tableHostWord (c : Config) (w : Nat) : HostWord := ⟨BitVec.ofNat 8 w, zeroArgs c (BitVec.ofNat 8 w)⟩

/-- The instruction of a bare word of opcode_table.json, whose rows all have 8 bits. -/
def decodeTableWord (nbits w : Nat) : Option Instr :=
  if nbits ≤ 8 ∧ w < 256 then
    match decode hw (.hostop (tableHostWord hw w)) with
    | .ok i => some i
    | .error _ => none
  else none

end Sys2Proof
end

