-- ==== Sys2Proof/Machine/State.lean ====
section
/-! DEFINITION. The state of the CODEC as plain data (10_state.md R20), its events (R27), errors (60_exceptions.md
R241), outcomes (00_scope.md R15), the reasons a step stops, and the state at reset (70_reset_and_hazards.md R270). -/

namespace Sys2Proof.Machine

/-- R241: the info values of MalformedFrame. -/
inductive Malformed where
  | overflow | empty | addressOverrun | noControl | noPid
  deriving DecidableEq, Repr

/-- R241: the info values of TransportFailure. -/
inductive Direction where
  | read | write
  deriving DecidableEq, Repr

/-- R240, R241: the errors, each with its info value. InvalidAddress has the one info value BadSsid. -/
inductive CodecError where
  | transportFailure (d : Direction)
  | malformedFrame (r : Malformed)
  | invalidAddress
  deriving DecidableEq, Repr

/-- R196: the resolution of the C bits. -/
inductive CmdResp where
  | command | response | none
  deriving DecidableEq, Repr

/-- R198: the label of a poll or final bit. -/
inductive PfLabel where
  | p | f | none
  deriving DecidableEq, Repr

/-- R200: the trace record of one frame. -/
structure TraceRecord where
  header : Text
  cr : CmdResp
  kind : Kind
  pf : PfLabel
  payload : Option (List Byte)
  deriving DecidableEq, Repr

/-- R27: the events of the output history. -/
inductive Event where
  /-- A completed frame buffer handed to the Frame Interpreter. -/
  | frame (f : List Byte)
  /-- A trace record. -/
  | trace (t : TraceRecord)
  /-- A frame whose type tag is not `DATA_TAG`. -/
  | nonData (tag : Byte)
  /-- An error report. -/
  | log (e : CodecError)
  /-- The encoded bytes handed to the transport and the count it accepted. -/
  | write (bytes : List Byte) (k : Nat)
  deriving DecidableEq, Repr

/-- The result of an operation that ends `Ok` (R15). -/
inductive OpResult where
  /-- `Ok(())`. -/
  | unit
  /-- AENC: an address field; BUILD: a link-layer frame. -/
  | bytes (bs : List Byte)
  /-- ADEC: the text and whether more address fields follow. -/
  | address (text : Text) (more : Bool)
  /-- CCLASS: the classification. -/
  | kind (k : Kind)
  /-- FINTERP: a trace record. -/
  | trace (t : TraceRecord)
  /-- FINTERP: a non-data frame. -/
  | nonData (tag : Byte)
  deriving DecidableEq, Repr

/-- R15: the outcomes of an operation that was not refused. -/
inductive OpOutcome where
  | ok (r : OpResult)
  | err (e : CodecError)
  | fatal (e : CodecError)
  deriving DecidableEq, Repr

/-- The state. The first seven fields are R20's record and all the state the spec gives the machine. The others are
the MODEL's: the parameters of R7 (log entry 1), the host's program (log entry 3), the outcome handed to the host (log
entry 5) and the draws (log entry 6), which R20 calls parameters, results and draws and which a step of this form can
find nowhere else. -/
structure State where
  /-- R23 `open`: a session exists. -/
  isOpen : Bool
  /-- R24: a TransportFailure has ended the run. -/
  fatal : Bool
  /-- R25: the framer's state. -/
  rx : RxState
  /-- R26: escape pending. -/
  esc : Bool
  /-- R28: the partially accumulated frame, the hardware's one memory (R40): byte `i` is at address `i`. -/
  buf : List Byte
  /-- R27: the output history, oldest first. -/
  ev : List Event
  /-- R22: the index of the next host operation. -/
  opi : Nat
  /-- MODEL: the record `Config` of R7, the argument of the model. No operation writes it: it is fixed for the life of
  the model (R31). -/
  cfg : Config
  /-- MODEL: the host's program (R22, R226). No operation writes it (R54). -/
  prog : List HostWord
  /-- MODEL: the outcome of the last operation that was not refused (R15). -/
  out : Option OpOutcome
  /-- MODEL: injected answers to reads, next first (R221, R82). -/
  reads : List ReadAnswer
  /-- MODEL: injected answers to writes, next first (R221, R82). -/
  writes : List WriteAnswer
  /-- MODEL: injected padding bytes, next first (R207). -/
  pads : List Byte
  /-- MODEL: how many free draws have been taken (R14). -/
  draw : Nat
  deriving DecidableEq, Repr

/-- Why the machine stops with a fault. -/
inductive Fault where
  /-- Raised by `step` when the host's program has no operation at `opi` (R22: the program is a finite list). The
  CODEC does nothing unless the host issues an operation, so stopping here is safe (log entry 4). -/
  | noOperation
  deriving DecidableEq, Repr

/-- Why an operation is refused, with no state change (R247). -/
inductive Refusal where
  /-- No meaning written yet: raised by no arm of `exec` in this model. Safe. -/
  | notModelled (mnemonic : String)
  /-- R81, R247 `IllegalOperation`: raised by RESERVED_OP. Safe: the spec's own refusal. -/
  | illegalOperation
  /-- R81, R247 `BadOperand`: raised by `step` for operands of the wrong type or shape, by ADEC for a list that is not
  one address field, and by the framer rows for a byte outside their class (log entry 8). Safe. -/
  | badOperand
  /-- R244, R247 `Halted`: raised by every operation after a TransportFailure. Safe: the spec's own refusal. -/
  | halted
  /-- R225, R247 `NotOpen`: raised by RXBYTE, RXPOLL, TXFRAME, CLOSE and the framer rows without a session. Safe: the
  spec's own refusal. -/
  | notOpen
  /-- Raised by `step`, before any other check, for parameters whose framing constants are not distinct: R8 says that the
  model refuses such a Config, and this refusal of the operation is deduced from it (log entry 12). Safe; it does not
  happen with this hardware's parameters. -/
  | badConfig
  /-- Raised by a framer row (R102 to R108) run in the other framer state: the row's rule is for one state only and
  gives no effect in the other. Safe (log entry 8). -/
  | rowNotEnabled
  deriving DecidableEq, Repr

/-- The outcome of one step of this machine. -/
abbrev Res := Host.Outcome State Fault Refusal

/-- R270: the state at reset of the model with parameters `c` (R7). The model's other fields start empty (log
entry 7). -/
def State.resetWith (c : Config) : State where
  isOpen := false
  fatal := false
  rx := .idle
  esc := false
  buf := []
  ev := []
  opi := 0
  cfg := c
  prog := []
  out := none
  reads := []
  writes := []
  pads := []
  draw := 0

/-- R270: the state at reset, with the parameters of this hardware. -/
def State.reset : State := State.resetWith hw

end Sys2Proof.Machine
end

