-- ==== Sys2Proof/Machine/Flags.lean ====
section
/-! DEFINITION. The status bits. The CODEC has no flags register and no condition codes: its only status bits are `esc`
and `fatal` (10_state.md R30). The exit statuses of a run (60_exceptions.md R259) are derived from `fatal` in
Machine/Run.lean, and the numeric error
codes are R241's. -/

namespace Sys2Proof.Machine

/-- R26: write the escape-pending flag. -/
def setEsc (v : Bool) (s : State) : State := { s with esc := v }

/-- R24: `fatal` becomes true; no operation clears it. -/
def setFatal (s : State) : State := { s with fatal := true }

/-- R259: the exit statuses. -/
inductive ExitStatus where
  | success | failure
  deriving DecidableEq, Repr

/-- R241: the numeric code of an error. -/
def errorCode : CodecError → Nat
  | .transportFailure _ => 1
  | .malformedFrame _ => 2
  | .invalidAddress => 3

end Sys2Proof.Machine
end

