-- ==== Sys2Proof/Machine/Ops.lean ====
section
/-! DEFINITION. The named operations over the state that the meanings share: the preconditions and their priority
(60_exceptions.md R248), ending an operation (R15), emitting an event (10_state.md R27), raising a fatal error
(60_exceptions.md R244), the framer's register writes, the one memory `buf` with BufRead and BufAppend (20_memory.md
R42, R43), the draws (00_scope.md R14) and fetching the host's next operation (10_state.md R22). -/

namespace Sys2Proof.Machine

/-! ## Ending an operation -/

/-- R27: append an event to the output history. -/
def emit (e : Event) (s : State) : State := { s with ev := s.ev ++ [e] }

/-- R22: advance to the next host operation, handing the host the outcome `o`. -/
def finish (o : OpOutcome) (s : State) : State := { s with opi := s.opi + 1, out := some o }

/-- End an operation `Ok(r)`. -/
def endOk (r : OpResult) (s : State) : Res := .next (finish (.ok r) s)

/-- End an operation `Err(e)`: a recovered error handed to the host, with no event (R242, R246). -/
def endErr (e : CodecError) (s : State) : Res := .next (finish (.err e) s)

/-- R244: `raise Fatal(TransportFailure, d)`, the one way a run ends. The framer and the session stay as they were. -/
def raiseFatal (d : Direction) (s : State) : Res :=
  .next (finish (.fatal (.transportFailure d)) (setFatal (emit (.log (.transportFailure d)) s)))

/-! ## Preconditions -/

/-- R225: an operation that needs no session. -/
def whenRunning (s : State) (k : Res) : Res := if s.fatal then .refused .halted else k

/-- R225, R248: an operation that needs a session; `Halted` is reported before `NotOpen`. -/
def whenOpen (s : State) (k : Res) : Res :=
  whenRunning s (if s.isOpen then k else .refused .notOpen)

/-! ## The framer's registers and the frame buffer -/

/-- R102: entry to `InFrame`. -/
def startFrame (s : State) : State := { s with rx := .inFrame, esc := false, buf := [] }

/-- R272: back to `Idle`, nothing of the frame kept. -/
def toIdle (s : State) : State := { s with rx := .idle, esc := false, buf := [] }

/-- R23: write `open`. -/
def setOpen (v : Bool) (s : State) : State := { s with isOpen := v }

/-- Write the frame buffer. -/
def setBuf (bs : List Byte) (s : State) : State := { s with buf := bs }

/-- The canonical form of the hardware's memory: addresses 0 to `|buf|` - 1 are listed, each once and in order, by the
form of a list, and there are at most `CAP` of them (R28, R41; log entry 11). -/
def Memory.wf (c : Config) (buf : List Byte) : Bool := decide (buf.length ≤ c.cap)

/-- R42: BufRead. An address that holds no defined byte reads as nothing (R41). -/
def bufRead (i : Nat) (s : State) : Option Byte := s.buf[i]?

/-- R43: BufAppend, the bounded append, which fails closed. -/
def bufAppend (c : Config) (b : Byte) (s : State) : State :=
  if s.buf.length = c.cap then emit (.log (.malformedFrame .overflow)) (toIdle s)
  else setBuf (s.buf ++ [b]) s

/-! ## Draws -/

/-- R221: the read answers the transport may give: `Data` of 1 to `MAX_READ` bytes, `Empty`, `ReadError`. Every such
answer is its own image. A `Data` of more bytes is cut to `MAX_READ` of them, one of none is `Empty` (log entry 6). -/
def legalRead (c : Config) : ReadAnswer → ReadAnswer
  | .data bs =>
    match bs.take c.maxRead with
    | [] => .empty
    | b :: rest => .data (b :: rest)
  | .empty => .empty
  | .readError => .readError

/-- R221: the write answers the transport may give to an offer of `n` bytes. Every such answer is its own image. -/
def legalWrite (n : Nat) : WriteAnswer → WriteAnswer
  | .written k => .written (min k n)
  | .writeError => .writeError

/-- R207: the padding bytes, `PAD_LO` to `PAD_HI` inclusive. Every such byte is its own image. -/
def legalPad (c : Config) (b : Byte) : Byte :=
  if c.padLo ≤ b ∧ b ≤ c.padHi then b
  else BitVec.ofNat 8 (c.padLo.toNat + b.toNat % (c.padHi.toNat - c.padLo.toNat + 1))

/-- The answer to the next read: the next injected one, else a free one, each as R221 bounds it (log entry 6). -/
def readAnswer (c : Config) (s : State) : ReadAnswer :=
  match s.reads with
  | a :: _ => legalRead c a
  | [] => legalRead c (Config.freeRead s.draw)

/-- The state after the next read's draw. -/
def takeRead (s : State) : State :=
  match s.reads with
  | _ :: rest => { s with reads := rest }
  | [] => { s with draw := s.draw + 1 }

/-- The answer to the next write, of `n` bytes. -/
def writeAnswer (n : Nat) (s : State) : WriteAnswer :=
  match s.writes with
  | a :: _ => legalWrite n a
  | [] => legalWrite n (Config.freeWrite s.draw)

/-- The state after the next write's draw. -/
def takeWrite (s : State) : State :=
  match s.writes with
  | _ :: rest => { s with writes := rest }
  | [] => { s with draw := s.draw + 1 }

/-- The next padding byte. -/
def padByte (c : Config) (s : State) : Byte :=
  match s.pads with
  | b :: _ => legalPad c b
  | [] => legalPad c (Config.freePad s.draw)

/-- The state after the next padding byte's draw. -/
def takePad (s : State) : State :=
  match s.pads with
  | _ :: rest => { s with pads := rest }
  | [] => { s with draw := s.draw + 1 }

/-- The next `m` padding bytes, in the order drawn (R207). -/
def padBytes (c : Config) : Nat → State → List Byte
  | 0, _ => []
  | m + 1, s => padByte c s :: padBytes c m (takePad s)

/-- The state after `m` padding draws. -/
def takePads : Nat → State → State
  | 0, s => s
  | m + 1, s => takePads m (takePad s)

/-! ## The host's program -/

/-- R22: the host's next operation. -/
def fetch (s : State) : Option HostWord := s.prog[s.opi]?

/-- Put `w` at index `n` of a program, the rest kept; a gap below `n` is filled with OPEN words. -/
def placeAt (w : HostWord) : Nat → List HostWord → List HostWord
  | 0, [] => [w]
  | 0, _ :: rest => w :: rest
  | n + 1, [] => ⟨0x01, []⟩ :: placeAt w n []
  | n + 1, x :: rest => x :: placeAt w n rest

end Sys2Proof.Machine
end

