-- ==== Sys2Proof/Machine/Control.lean ====
section
/-! DEFINITION. The control-field classifier: CCLASS (42_control.md R160, R161) and its type rows (R162 to R177). A row
is CCLASS of a control byte of its type and has CCLASS's preconditions. -/

namespace Sys2Proof.Machine

/-- End a classification `Ok(k)` (R160). -/
def endKind (k : Kind) (s : State) : Res := whenRunning s (endOk (.kind k) s)

/-- CCLASS (R160). -/
def execCclass (c : Byte) (s : State) : Res := endKind (classify c) s

/-- I (R162). -/
def execCtrlI (ns nr : BitVec 3) (pf : BitVec 1) (s : State) : Res := endKind (.i ns nr pf) s

/-- RR (R163). -/
def execCtrlRR (nr : BitVec 3) (pf : BitVec 1) (s : State) : Res := endKind (.s .rr nr pf) s

/-- RNR (R164). -/
def execCtrlRNR (nr : BitVec 3) (pf : BitVec 1) (s : State) : Res := endKind (.s .rnr nr pf) s

/-- REJ (R165). -/
def execCtrlREJ (nr : BitVec 3) (pf : BitVec 1) (s : State) : Res := endKind (.s .rej nr pf) s

/-- SREJ (R166). -/
def execCtrlSREJ (nr : BitVec 3) (pf : BitVec 1) (s : State) : Res := endKind (.s .srej nr pf) s

/-- S_UNKNOWN (R167). No byte is of this type with the selectors of R70 (log entry 8). -/
def execCtrlSUnknown (nr : BitVec 3) (pf : BitVec 1) (s : State) : Res := endKind (.s .unknown nr pf) s

/-- SABME (R168). -/
def execCtrlSABME (pf : BitVec 1) (s : State) : Res := endKind (.u .sabme pf) s

/-- SABM (R169). -/
def execCtrlSABM (pf : BitVec 1) (s : State) : Res := endKind (.u .sabm pf) s

/-- DISC (R170). -/
def execCtrlDISC (pf : BitVec 1) (s : State) : Res := endKind (.u .disc pf) s

/-- DM (R171). -/
def execCtrlDM (pf : BitVec 1) (s : State) : Res := endKind (.u .dm pf) s

/-- UA (R172). -/
def execCtrlUA (pf : BitVec 1) (s : State) : Res := endKind (.u .ua pf) s

/-- FRMR (R173). -/
def execCtrlFRMR (pf : BitVec 1) (s : State) : Res := endKind (.u .frmr pf) s

/-- UI (R174). -/
def execCtrlUI (pf : BitVec 1) (s : State) : Res := endKind (.u .ui pf) s

/-- XID (R175). -/
def execCtrlXID (pf : BitVec 1) (s : State) : Res := endKind (.u .xid pf) s

/-- TEST (R176). -/
def execCtrlTEST (pf : BitVec 1) (s : State) : Res := endKind (.u .test pf) s

/-- U_UNKNOWN (R177): the type is `Unknown` whatever the modifier bits. -/
def execCtrlUUnknown (pf : BitVec 1) (s : State) : Res := endKind (.u .unknown pf) s

end Sys2Proof.Machine
end

