-- ==== Sys2Proof/Machine/Address.lean ====
section
/-! DEFINITION. The Address Codec: AENC and ADEC (41_address.md R130 to R141). -/

namespace Sys2Proof.Machine

/-- R131: the callsign portion and the SSID, or nothing for a bad suffix (R135). -/
def splitCall (call : Text) : Option (Text × Nat) :=
  if call.contains 0x2D then
    let sfx := (call.dropWhile (· != 0x2D)).tail
    if sfx = [] ∨ sfx.all isDigit = false ∨ 15 < value sfx then none
    else some (call.takeWhile (· != 0x2D), value sfx)
  else some (call, 0)

/-- R132: truncate to `CALL_LEN` characters and pad on the right with spaces. -/
def padCall (c : Config) (cs : Text) : Text :=
  cs.take c.callLen ++ List.replicate (c.callLen - min c.callLen cs.length) 0x20

/-- R133: a character's byte, shifted left by one; bit 7 of the character is lost. -/
def charByte (ch : Byte) : Byte := ch <<< 1

/-- R137: a byte's character, shifted right by one; bit 0 of the byte is ignored. -/
def byteChar (b : Byte) : Byte := b >>> 1

/-- R131 to R134: the address field of a call, or nothing for a bad SSID: `CALL_LEN` characters and one byte more,
whatever `ADDR_LEN` is (DESIGN CHOICE, log entry 15). -/
def encodeAddr (c : Config) (call : Text) (cmd last : Bool) : Option (List Byte) :=
  match splitCall call with
  | none => none
  | some (cs, ssid) => some ((padCall c cs).map charByte ++ [seventhByte ssid cmd last])

/-- R137: the callsign text; every space is dropped. -/
def callText (c : Config) (a : List Byte) : Text :=
  ((a.take c.callLen).map byteChar).filter (· != 0x20)

/-- R138: the SSID suffix, nothing for SSID 0. -/
def ssidText (ssid : Nat) : Text := if ssid = 0 then [] else 0x2D :: dec ssid

/-- R66: the seventh byte of an address field, `a[6]`, is read as the byte after the `CALL_LEN` characters. DESIGN
CHOICE (log entry 15): R7 sets no relation between `CALL_LEN` and `ADDR_LEN`, so under a `Config` whose `ADDR_LEN` is not
`CALL_LEN` + 1 it is the byte at index `CALL_LEN` and not the one at `ADDR_LEN` - 1, and 0 where the field has no such
byte. -/
def lastByte (c : Config) (a : List Byte) : Byte := a.getD c.callLen 0

/-- R137 to R140: the text of an address field and whether more address fields follow. -/
def decodeAddr (c : Config) (a : List Byte) (rep : Bool) : Text × Bool :=
  (callText c a ++ ssidText (ssidOf (lastByte c a)) ++ (if rep && topBit (lastByte c a) then [0x2A] else []),
   moreFollows (lastByte c a))

/-- AENC (R130). -/
def execAenc (call : Text) (cmd last : Bool) (s : State) : Res :=
  whenRunning s
    (match encodeAddr s.cfg call cmd last with
     | none => endErr .invalidAddress s
     | some a => endOk (.bytes a) s)

/-- ADEC (R136). A list that is not one address field is `BadOperand`, reported before `Halted` (R248). -/
def execAdec (a : List Byte) (rep : Bool) (s : State) : Res :=
  if a.length = s.cfg.addrLen then
    whenRunning s (endOk (.address (decodeAddr s.cfg a rep).1 (decodeAddr s.cfg a rep).2) s)
  else .refused .badOperand

end Sys2Proof.Machine
end

