-- ==== Sys2Proof/Machine/Interpreter.lean ====
section
/-! DEFINITION. The Frame Interpreter: FINTERP and BUILD (43_interpreter.md R190 to R208). -/

namespace Sys2Proof.Machine

/-- R190: the results of `Interpret`. -/
inductive Interp where
  | trace (t : TraceRecord)
  | nonData (tag : Byte)
  | malformed (r : Malformed)
  deriving DecidableEq, Repr

/-- R194: the repeater walk over the bytes from offset `n` on. It answers the repeaters' texts and the bytes from the
control byte on, or nothing when a repeater needs bytes past the end. `fuel` bounds the walk; one more than the
number of bytes is enough, since each repeater takes `ADDR_LEN` of them (for an `ADDR_LEN` of 0 see log entry 15). -/
def walkRepeaters (c : Config) : Nat → List Byte → Option (List Text × List Byte)
  | 0, _ => none
  | fuel + 1, rest =>
    if rest.length < c.addrLen then none
    else
      let (rtext, more) := decodeAddr c (rest.take c.addrLen) true
      if more then
        match walkRepeaters c fuel (rest.drop c.addrLen) with
        | none => none
        | some (reps, after) => some (rtext :: reps, after)
      else some ([rtext], rest.drop c.addrLen)

/-- R194: no walk when the source's extension bit says it is the last address. -/
def repeaters (c : Config) (more : Bool) (rest : List Byte) : Option (List Text × List Byte) :=
  if more then walkRepeaters c (rest.length + 1) rest else some ([], rest)

/-- R195: `SOURCE>DESTINATION[,REPEATER...]`. -/
def headerText (stext dtext : Text) (reps : List Text) : Text :=
  stext ++ 0x3E :: dtext ++ (reps.map (fun r => 0x2C :: r)).flatten

/-- R196. -/
def resolveCr (dc sc : Bool) : CmdResp :=
  match dc, sc with
  | true, false => .command
  | false, true => .response
  | false, false => .none
  | true, true => .none

/-- R198: an I frame's set P/F bit is P in a command and F in a response; nothing else is labelled. -/
def pfLabel (k : Kind) (cr : CmdResp) : PfLabel :=
  match k with
  | .i _ _ pf =>
    if pf = 1 then
      match cr with
      | .command => .p
      | .response => .f
      | .none => .none
    else .none
  | .s _ _ _ => .none
  | .u _ _ => .none

/-- R197 to R200, from the control byte on. -/
def interpretControl (header : Text) (cr : CmdResp) (rest : List Byte) : Interp :=
  match rest with
  | [] => .malformed .noControl
  | b :: after =>
    let k := classify b
    if carriesPayload k then
      match after with
      | [] => .malformed .noPid
      | _ :: payload => .trace ⟨header, cr, k, pfLabel k cr, some payload⟩
    else .trace ⟨header, cr, k, pfLabel k cr, none⟩

/-- R193 to R200: a frame `p` after its type tag. -/
def interpretAddresses (c : Config) (p : List Byte) : Interp :=
  if p.length < 2 * c.addrLen then .malformed .addressOverrun
  else
    let d := p.take c.addrLen
    let src := (p.drop c.addrLen).take c.addrLen
    let (dtext, _) := decodeAddr c d false
    let (stext, more) := decodeAddr c src false
    match repeaters c more (p.drop (2 * c.addrLen)) with
    | none => .malformed .addressOverrun
    | some (reps, rest) =>
      interpretControl (headerText stext dtext reps) (resolveCr (topBit (lastByte c d)) (topBit (lastByte c src))) rest

/-- R191, R192: `Interpret(f)`, a function of the frame and the parameters alone (R204). -/
def interpret (c : Config) (f : List Byte) : Interp :=
  match f with
  | [] => .malformed .empty
  | tag :: p => if tag ≠ c.dataTag then .nonData tag else interpretAddresses c p

/-- FINTERP (R190). It emits no event. -/
def execFinterp (f : List Byte) (s : State) : Res :=
  whenRunning s
    (match interpret s.cfg f with
     | .trace t => endOk (.trace t) s
     | .nonData tag => endOk (.nonData tag) s
     | .malformed r => endErr (.malformedFrame r) s)

/-- R206: how many padding bytes BUILD draws. -/
def padCount (lit : List Byte) (total : Nat) : Nat := total - lit.length

/-- R206: the link-layer frame from its two addresses and its payload. -/
def buildFrame (c : Config) (d a : List Byte) (lit pad : List Byte) : List Byte :=
  d ++ a ++ [c.ctrlUi, c.pidNone] ++ lit ++ pad

/-- BUILD (R205 to R208). A bad destination is reported first and nothing is drawn for a bad address. -/
def execBuild (dst src : Text) (lit : List Byte) (total : Nat) (s : State) : Res :=
  whenRunning s
    (match encodeAddr s.cfg dst true false with
     | none => endErr .invalidAddress s
     | some d =>
       match encodeAddr s.cfg src false true with
       | none => endErr .invalidAddress s
       | some a =>
         endOk (.bytes (buildFrame s.cfg d a lit (padBytes s.cfg (padCount lit total) s)))
           (takePads (padCount lit total) s))

end Sys2Proof.Machine
end

