-- ==== Sys2Proof/Machine/Framer.lean ====
section
/-! DEFINITION. The Framing Codec: RXBYTE and its transition rows (40_framer.md R100 to R109), delivery of a frame to
the interpreter (44_session.md R224), and TXFRAME (40_framer.md R110 to R112). -/

namespace Sys2Proof.Machine

/-- R224: the one event that reports the interpretation of a delivered frame. -/
def reportEvent : Interp → Event
  | .trace t => .trace t
  | .nonData tag => .nonData tag
  | .malformed r => .log (.malformedFrame r)

/-- R224: `Deliver(f)`. -/
def deliver (c : Config) (f : List Byte) (s : State) : State :=
  emit (reportEvent (interpret c f)) (emit (.frame f) s)

/-- R104: frame end. An empty frame emits nothing. -/
def endFrame (c : Config) (s : State) : State :=
  if s.buf = [] then toIdle s else toIdle (deliver c s.buf s)

/-- R105: escape; nothing is stored. -/
def escapeByte (s : State) : State := setEsc true s

/-- R106: transposed delimiter. -/
def transposedFend (c : Config) (s : State) : State :=
  bufAppend c (if s.esc then c.fend else c.tfend) (setEsc false s)

/-- R107: transposed escape. -/
def transposedFesc (c : Config) (s : State) : State :=
  bufAppend c (if s.esc then c.fesc else c.tfesc) (setEsc false s)

/-- R108: a data byte. -/
def dataByte (c : Config) (b : Byte) (s : State) : State := bufAppend c b (setEsc false s)

/-- R101 to R109: what a received byte does to the framer (RXBYTE-body of R223: no precondition, no `opi`). -/
def rxBody (c : Config) (b : Byte) (s : State) : State :=
  match s.rx, classOf c b with
  | .idle, .fend => startFrame s
  | .idle, .fesc => s
  | .idle, .tfend => s
  | .idle, .tfesc => s
  | .idle, .other => s
  | .inFrame, .fend => endFrame c s
  | .inFrame, .fesc => escapeByte s
  | .inFrame, .tfend => transposedFend c s
  | .inFrame, .tfesc => transposedFesc c s
  | .inFrame, .other => dataByte c b s

/-- R115: a stream of bytes, in order. -/
def rxBytes (c : Config) (bs : List Byte) (s : State) : State := bs.foldl (fun t b => rxBody c b t) s

/-- RXBYTE (R100). -/
def execRxByte (b : Byte) (s : State) : Res := whenOpen s (endOk .unit (rxBody s.cfg b s))

/-- A transition row: RXBYTE in framer state `st`, whose effect is `s'` (R100). -/
def inState (st : RxState) (s s' : State) : Res :=
  whenOpen s (if s.rx = st then endOk .unit s' else .refused .rowNotEnabled)

/-- RX_IDLE_FEND (R102). -/
def execRxIdleFend (s : State) : Res := inState .idle s (startFrame s)

/-- RX_IDLE_OTHER (R103): the byte is discarded. -/
def execRxIdleOther (b : Byte) (s : State) : Res :=
  if classOf s.cfg b = .fend then .refused .badOperand else inState .idle s s

/-- RX_INFRAME_FEND (R104). -/
def execRxInFrameFend (s : State) : Res := inState .inFrame s (endFrame s.cfg s)

/-- RX_INFRAME_FESC (R105). -/
def execRxInFrameFesc (s : State) : Res := inState .inFrame s (escapeByte s)

/-- RX_INFRAME_TFEND (R106). -/
def execRxInFrameTfend (s : State) : Res := inState .inFrame s (transposedFend s.cfg s)

/-- RX_INFRAME_TFESC (R107). -/
def execRxInFrameTfesc (s : State) : Res := inState .inFrame s (transposedFesc s.cfg s)

/-- RX_INFRAME_OTHER (R108). -/
def execRxInFrameOther (b : Byte) (s : State) : Res :=
  if classOf s.cfg b = .other then inState .inFrame s (dataByte s.cfg b s) else .refused .badOperand

/-! ## Transmit -/

/-- R62: the escape map of one data byte. -/
def escape (c : Config) (b : Byte) : List Byte :=
  if b = c.fend then [c.fesc, c.tfend]
  else if b = c.fesc then [c.fesc, c.tfesc]
  else [b]

/-- R110: the encoded frame. The tag is not escaped (R112) and no length limit applies. -/
def txEncode (c : Config) (tag : Byte) (p : List Byte) : List Byte :=
  [c.fend, tag] ++ (p.map (escape c)).flatten ++ [c.fend]

/-- R111: the write of `bytes`, given the transport's answer. -/
def txWrite (bytes : List Byte) (w : WriteAnswer) (s : State) : Res :=
  match w with
  | .written k =>
    if k = bytes.length then endOk .unit (emit (.write bytes k) s)
    else raiseFatal .write (emit (.write bytes k) s)
  | .writeError => raiseFatal .write (emit (.write bytes 0) s)

/-- TXFRAME (R110, R111). -/
def execTxFrame (tag : Byte) (p : List Byte) (s : State) : Res :=
  whenOpen s
    (txWrite (txEncode s.cfg tag p) (writeAnswer (txEncode s.cfg tag p).length s) (takeWrite s))

end Sys2Proof.Machine
end

