-- ==== Sys2Proof/Machine/Session.lean ====
section
/-! DEFINITION. Session operations: OPEN, CLOSE and RXPOLL (44_session.md R220, R222, R223), and RESERVED_OP
(30_encoding.md R81). -/

namespace Sys2Proof.Machine

/-- OPEN (R220). It needs no session; while a session is open it discards the partial frame. -/
def execOpen (s : State) : Res := whenRunning s (endOk .unit (toIdle (setOpen true s)))

/-- CLOSE (R222). A partial frame is discarded without an event. -/
def execClose (s : State) : Res := whenOpen s (endOk .unit (toIdle (setOpen false s)))

/-- R223: what RXPOLL does with the transport's answer. -/
def pollAnswer (c : Config) (a : ReadAnswer) (s : State) : Res :=
  match a with
  | .empty => endOk .unit s
  | .data bs => endOk .unit (rxBytes c bs s)
  | .readError => raiseFatal .read s

/-- RXPOLL (R223). -/
def execRxPoll (s : State) : Res := whenOpen s (pollAnswer s.cfg (readAnswer s.cfg s) (takeRead s))

/-- RESERVED_OP (R81): the operation ends `Refused(IllegalOperation)` with no state change. -/
def execReservedOp (_s : State) : Res := .refused .illegalOperation

end Sys2Proof.Machine
end

