-- ==== Sys2Proof/Machine/Dispatch.lean ====
section
/-! DEFINITION. One arm per row of opcode_table.json, in the table's order. -/

namespace Sys2Proof.Machine

/-- The meaning of each instruction. -/
def exec (i : Instr) (s : State) : Host.Outcome State Fault Refusal :=
  match i with
  -- HOSTOP
  | .openSession => Sys2Proof.Machine.execOpen s
  | .closeSession => Sys2Proof.Machine.execClose s
  | .rxByte b => Sys2Proof.Machine.execRxByte b s
  | .rxPoll => Sys2Proof.Machine.execRxPoll s
  | .txFrame tag p => Sys2Proof.Machine.execTxFrame tag p s
  | .aenc call cmd last => Sys2Proof.Machine.execAenc call cmd last s
  | .adec a rep => Sys2Proof.Machine.execAdec a rep s
  | .cclass c => Sys2Proof.Machine.execCclass c s
  | .finterp f => Sys2Proof.Machine.execFinterp f s
  | .build dst src lit total => Sys2Proof.Machine.execBuild dst src lit total s
  | .reservedOp _ => Sys2Proof.Machine.execReservedOp s
  -- CTRL8
  | .ctrlI ns nr pf => Sys2Proof.Machine.execCtrlI ns nr pf s
  | .ctrlRR nr pf => Sys2Proof.Machine.execCtrlRR nr pf s
  | .ctrlRNR nr pf => Sys2Proof.Machine.execCtrlRNR nr pf s
  | .ctrlREJ nr pf => Sys2Proof.Machine.execCtrlREJ nr pf s
  | .ctrlSREJ nr pf => Sys2Proof.Machine.execCtrlSREJ nr pf s
  | .ctrlSUnknown nr pf _ => Sys2Proof.Machine.execCtrlSUnknown nr pf s
  | .ctrlSABME pf => Sys2Proof.Machine.execCtrlSABME pf s
  | .ctrlSABM pf => Sys2Proof.Machine.execCtrlSABM pf s
  | .ctrlDISC pf => Sys2Proof.Machine.execCtrlDISC pf s
  | .ctrlDM pf => Sys2Proof.Machine.execCtrlDM pf s
  | .ctrlUA pf => Sys2Proof.Machine.execCtrlUA pf s
  | .ctrlFRMR pf => Sys2Proof.Machine.execCtrlFRMR pf s
  | .ctrlUI pf => Sys2Proof.Machine.execCtrlUI pf s
  | .ctrlXID pf => Sys2Proof.Machine.execCtrlXID pf s
  | .ctrlTEST pf => Sys2Proof.Machine.execCtrlTEST pf s
  | .ctrlUUnknown _ pf _ => Sys2Proof.Machine.execCtrlUUnknown pf s
  -- RXBYTE_CLASS
  | .rxIdleFend => Sys2Proof.Machine.execRxIdleFend s
  | .rxIdleOther b => Sys2Proof.Machine.execRxIdleOther b s
  | .rxInFrameFend => Sys2Proof.Machine.execRxInFrameFend s
  | .rxInFrameFesc => Sys2Proof.Machine.execRxInFrameFesc s
  | .rxInFrameTfend => Sys2Proof.Machine.execRxInFrameTfend s
  | .rxInFrameTfesc => Sys2Proof.Machine.execRxInFrameTfesc s
  | .rxInFrameOther b => Sys2Proof.Machine.execRxInFrameOther b s

end Sys2Proof.Machine
end

