-- ==== Sys2Proof/Machine/Step.lean ====
section
/-! DEFINITION. One step: the host's next operation, decoded and run (10_state.md R22, 60_exceptions.md R248). -/

namespace Sys2Proof.Machine

/-- One host operation, under the parameters of the state (log entry 1). Parameters that violate R8 are refused before
anything runs (70_reset_and_hazards.md R273); past the program's end there is no operation (log entry 4); an operand of
the wrong type or shape is `BadOperand`. -/
def step (s : State) : Host.Outcome State Fault Refusal :=
  if s.cfg.distinct then
    match fetch s with
    | none => .fault .noOperation
    | some w =>
      match decode s.cfg (.hostop w) with
      | .error .badOperand => .refused .badOperand
      | .ok i => exec i s
  else .refused .badConfig

/-- `s` with the operation of a bare table word as the host's next operation (log entries 3 and 9). -/
def State.withFetchWord (s : State) (_nbits w : Nat) : State :=
  { s with prog := placeAt (tableHostWord s.cfg w) s.opi s.prog }

end Sys2Proof.Machine
end

