-- ==== Sys2Proof/Machine/Pseudo.lean ====
section
/-! DEFINITION. The pseudo-operations of a host and their expansions (30_encoding.md R83). They are no instructions:
a host issues what they expand to. -/

namespace Sys2Proof.Machine

/-- Operations issued one after another; nothing is issued after a refusal (R226). -/
def runInstrs : List Instr → State → Res
  | [], s => .next s
  | i :: rest, s =>
    match exec i s with
    | .next s' => runInstrs rest s'
    | .fault r => .fault r
    | .refused r => .refused r

/-- R83: RXSTREAM expands to one RXBYTE for each byte, in order. -/
def rxStream (bs : List Byte) : List Instr := bs.map Instr.rxByte

/-- R83: SENDTEST expands to BUILD and, unless BUILD ends in `Err`, a TXFRAME of its result with tag `DATA_TAG`. -/
def sendTest (dst src : Text) (lit : List Byte) (total : Nat) (s : State) : Res :=
  match exec (.build dst src lit total) s with
  | .next s' =>
    match s'.out with
    | some (.ok (.bytes f)) => exec (.txFrame s.cfg.dataTag f) s'
    | _ => .next s'
  | .fault r => .fault r
  | .refused r => .refused r

end Sys2Proof.Machine
end

