-- ==== Sys2Proof/Machine/Run.lean ====
section
/-! DEFINITION. The machine as a function of its parameters (00_scope.md R7), and a run of the host's program and its
exit status (44_session.md R226, 60_exceptions.md R244, R247, R259). -/

namespace Sys2Proof.Machine

/-- How a run ends. -/
inductive RunEnd where
  /-- With final state `s`: the program has no more operations, or a TransportFailure has ended the run (R244). -/
  | ended (s : State)
  /-- At an operation refused for `r` in state `s`, which it left as it was (R247). -/
  | stopped (s : State) (r : Refusal)
  deriving DecidableEq, Repr

/-- At most `n` operations of the host's program. The run is over when `fatal` is true (R24, R244): the host issues no
operation after an outcome `Fatal` or `Refused` (R226). -/
def runFor : Nat → State → RunEnd
  | 0, s => .ended s
  | n + 1, s =>
    if s.fatal then .ended s
    else
      match step s with
      | .next t => runFor n t
      | .fault .noOperation => .ended s
      | .refused r => .stopped s r

/-- R226: the run of what is left of the host's program. Every operation takes one entry of it (R22). -/
def runHost (s : State) : RunEnd := runFor (s.prog.length - s.opi) s

/-- R259: a run whose final state has `fatal` true has failure status, every other run success status; a run that stops
at a `Refused` outcome has none. -/
def exitStatus : RunEnd → Option ExitStatus
  | .ended s => some (if s.fatal then .failure else .success)
  | .stopped _ _ => none

/-- R7: the machine that takes the parameters `c` as its argument. `Sys2Proof.core` is the one of this hardware. -/
def codec (c : Config) : Host.Core :=
  { State := State, Fault := Fault, Refusal := Refusal, step := step, reset := State.resetWith c }

end Sys2Proof.Machine
end

