-- ==== Sys2Proof/Machine/Text.lean ====
section
/-! DEFINITION. The text of the output history (43_interpreter.md R201, R202) and of a host's program (30_encoding.md
R82). The structured records are normative (R200, D36) and no step depends on a text. -/

namespace Sys2Proof.Machine

/-- A quoted string of the spec as the list of its ASCII codes (R11). -/
def ascii (t : String) : Text := t.toList.map (fun ch => BitVec.ofNat 8 ch.toNat)

/-- One hex digit, upper case (D15). -/
def hexDigit (d : Nat) : Byte := if d < 10 then digit d else BitVec.ofNat 8 (0x41 + (d - 10))

/-- Two upper-case hex digits (R202). -/
def hex2 (b : Byte) : Text := [hexDigit (b.toNat / 16), hexDigit (b.toNat % 16)]

/-- The name of an S type (R201). -/
def sTypeText : SType → Text
  | .rr => ascii "RR"
  | .rnr => ascii "RNR"
  | .rej => ascii "REJ"
  | .srej => ascii "SREJ"
  | .unknown => ascii "Unknown"

/-- The name of a U type (R201). -/
def uTypeText : UType → Text
  | .sabme => ascii "SABME"
  | .sabm => ascii "SABM"
  | .disc => ascii "DISC"
  | .dm => ascii "DM"
  | .ua => ascii "UA"
  | .frmr => ascii "FRMR"
  | .ui => ascii "UI"
  | .xid => ascii "XID"
  | .test => ascii "TEST"
  | .unknown => ascii "Unknown"

/-- R201 item 2. -/
def crTokens : CmdResp → List Text
  | .command => [ascii "Command"]
  | .response => [ascii "Response"]
  | .none => []

/-- R201 item 3. -/
def kindTokens : Kind → List Text
  | .i ns nr _ => [ascii "I", ascii "S" ++ dec ns.toNat, ascii "R" ++ dec nr.toNat]
  | .s t nr _ => [sTypeText t, ascii "R" ++ dec nr.toNat]
  | .u t _ => [uTypeText t]

/-- R201 item 4. -/
def pfTokens : PfLabel → List Text
  | .p => [ascii "P"]
  | .f => [ascii "F"]
  | .none => []

/-- R201: the text of a trace record, its tokens joined by single spaces. -/
def traceText (t : TraceRecord) : Text :=
  List.intercalate [0x20]
    ([t.header] ++ crTokens t.cr ++ kindTokens t.kind ++ pfTokens t.pf ++ t.payload.toList)

/-- R202: the name of a malformed-frame reason. -/
def malformedText : Malformed → Text
  | .overflow => ascii "Overflow"
  | .empty => ascii "Empty"
  | .addressOverrun => ascii "AddressOverrun"
  | .noControl => ascii "NoControl"
  | .noPid => ascii "NoPid"

/-- R201, R202: the line of an event of the trace output; `Frame` and `Write` events, and an InvalidAddress, which is
never logged (R242), have none. -/
def eventText : Event → Option Text
  | .frame _ => none
  | .trace t => some (traceText t)
  | .nonData tag => some (ascii "message of type 0x" ++ hex2 tag ++ ascii " received")
  | .log (.malformedFrame r) => some (ascii "malformed frame: " ++ malformedText r)
  | .log (.transportFailure .read) => some (ascii "transport failure: read")
  | .log (.transportFailure .write) => some (ascii "transport failure: write")
  | .log .invalidAddress => none
  | .write _ _ => none

/-- R27: the trace output, one line for each Trace, NonData and Log event. -/
def traceOutput (s : State) : List Text := s.ev.filterMap eventText

/-- R82: an operand. -/
def operandText : Operand → Text
  | .byte b => ascii "0x" ++ hex2 b
  | .bytes bs => ascii "[" ++ List.intercalate [0x20] (bs.map hex2) ++ ascii "]"
  | .text t => 0x22 :: t ++ [0x22]
  | .bool b => if b then ascii "1" else ascii "0"
  | .nat n => dec n

/-- R80: the mnemonic of an operation code; a reserved code has none. -/
def mnemonicText (code : Byte) : Text :=
  if code = 0x01 then ascii "OPEN"
  else if code = 0x02 then ascii "CLOSE"
  else if code = 0x10 then ascii "RXBYTE"
  else if code = 0x11 then ascii "RXPOLL"
  else if code = 0x20 then ascii "TXFRAME"
  else if code = 0x30 then ascii "AENC"
  else if code = 0x31 then ascii "ADEC"
  else if code = 0x40 then ascii "CCLASS"
  else if code = 0x41 then ascii "FINTERP"
  else if code = 0x50 then ascii "BUILD"
  else []

/-- R82: one operation: the mnemonic, then the operands separated by commas. -/
def asmText (w : HostWord) : Text :=
  mnemonicText w.code ++
    (if w.args = [] then [] else 0x20 :: List.intercalate (ascii ", ") (w.args.map operandText))

/-- R82: the transport's answer to RXPOLL. -/
def readText : ReadAnswer → Text
  | .data bs => ascii "read -> " ++ operandText (.bytes bs)
  | .empty => ascii "read -> empty"
  | .readError => ascii "read -> error"

/-- R82: the transport's answer to TXFRAME. -/
def writeText : WriteAnswer → Text
  | .written k => ascii "write -> " ++ dec k
  | .writeError => ascii "write -> error"

/-- R82: a line of a program: the name of a result, the operation, and the transport's answer after `;`. -/
def asmLine (name : Option Text) (w : HostWord) (answer : Option Text) : Text :=
  (match name with
   | some n => n ++ ascii " = "
   | none => []) ++
  asmText w ++
  (match answer with
   | some a => ascii " ; " ++ a
   | none => [])

end Sys2Proof.Machine
end

