-- ==== Sys2Proof/Safety.lean ====
section
/-! DEFINITION. The terms claims are stated in: the invariant of 10_state.md R29, a successful run (60_exceptions.md
R244, R259), and which instructions are host operations, need a session or are pure (R35, R225). -/

namespace Sys2Proof

open Machine

/-- R29: what every reachable state keeps. -/
abbrev Inv (s : State) : Prop :=
  (s.rx = .idle → s.esc = false ∧ s.buf = []) ∧
  Memory.wf s.cfg s.buf = true ∧
  (s.isOpen = false → s.rx = .idle)

/-- R244, R247: a run that ends, at no refusal and with `fatal` false, is successful. -/
abbrev Successful (s : State) : Prop := exitStatus (runHost s) = some .success

/-- R221: the answers a read may have. -/
abbrev ReadAllowed (c : Config) : ReadAnswer → Prop
  | .data bs => 1 ≤ bs.length ∧ bs.length ≤ c.maxRead
  | .empty => True
  | .readError => True

/-- R221: the answers a write of `n` bytes may have. -/
abbrev WriteAllowed (n : Nat) : WriteAnswer → Prop
  | .written k => k ≤ n
  | .writeError => True

/-- The bytes of reads that did not fail, in order; nothing for a list with a `ReadError`. -/
def readBytes : List ReadAnswer → Option (List Byte)
  | [] => some []
  | .data bs :: rest => (readBytes rest).map (bs ++ ·)
  | .empty :: rest => readBytes rest
  | .readError :: _ => none

/-- R225: the instructions that need a session, the framer's rows among them (they are cases of RXBYTE). -/
def needsSession : Instr → Bool
  | .openSession => false
  | .closeSession => true
  | .rxByte _ => true
  | .rxPoll => true
  | .txFrame _ _ => true
  | .aenc _ _ _ => false
  | .adec _ _ => false
  | .cclass _ => false
  | .finterp _ => false
  | .build _ _ _ _ => false
  | .reservedOp _ => false
  | .ctrlI _ _ _ => false
  | .ctrlRR _ _ => false
  | .ctrlRNR _ _ => false
  | .ctrlREJ _ _ => false
  | .ctrlSREJ _ _ => false
  | .ctrlSUnknown _ _ _ => false
  | .ctrlSABME _ => false
  | .ctrlSABM _ => false
  | .ctrlDISC _ => false
  | .ctrlDM _ => false
  | .ctrlUA _ => false
  | .ctrlFRMR _ => false
  | .ctrlUI _ => false
  | .ctrlXID _ => false
  | .ctrlTEST _ => false
  | .ctrlUUnknown _ _ _ => false
  | .rxIdleFend => true
  | .rxIdleOther _ => true
  | .rxInFrameFend => true
  | .rxInFrameFesc => true
  | .rxInFrameTfend => true
  | .rxInFrameTfesc => true
  | .rxInFrameOther _ => true

/-- R35: AENC, ADEC, CCLASS (with its type rows), FINTERP and BUILD. -/
def isPure : Instr → Bool
  | .openSession => false
  | .closeSession => false
  | .rxByte _ => false
  | .rxPoll => false
  | .txFrame _ _ => false
  | .aenc _ _ _ => true
  | .adec _ _ => true
  | .cclass _ => true
  | .finterp _ => true
  | .build _ _ _ _ => true
  | .reservedOp _ => false
  | .ctrlI _ _ _ => true
  | .ctrlRR _ _ => true
  | .ctrlRNR _ _ => true
  | .ctrlREJ _ _ => true
  | .ctrlSREJ _ _ => true
  | .ctrlSUnknown _ _ _ => true
  | .ctrlSABME _ => true
  | .ctrlSABM _ => true
  | .ctrlDISC _ => true
  | .ctrlDM _ => true
  | .ctrlUA _ => true
  | .ctrlFRMR _ => true
  | .ctrlUI _ => true
  | .ctrlXID _ => true
  | .ctrlTEST _ => true
  | .ctrlUUnknown _ _ _ => true
  | .rxIdleFend => false
  | .rxIdleOther _ => false
  | .rxInFrameFend => false
  | .rxInFrameFesc => false
  | .rxInFrameTfend => false
  | .rxInFrameTfesc => false
  | .rxInFrameOther _ => false

/-- R80: the types of operands. -/
inductive OperandSort where
  | byte | bytes | text | bool | nat
  deriving DecidableEq, Repr

/-- The type of an operand. -/
def sortOf : Operand → OperandSort
  | .byte _ => .byte
  | .bytes _ => .bytes
  | .text _ => .text
  | .bool _ => .bool
  | .nat _ => .nat

/-- R80: the operand types of each operation code, in the rule's table's order. -/
def signatures : List (Byte × List OperandSort) :=
  [(0x01, []), (0x02, []), (0x10, [.byte]), (0x11, []), (0x20, [.byte, .bytes]), (0x30, [.text, .bool, .bool]),
   (0x31, [.bytes, .bool]), (0x40, [.byte]), (0x41, [.bytes]), (0x50, [.text, .text, .bytes, .nat])]

/-- R136: ADEC's list has the bytes of one address. -/
def startsWithAddress (c : Config) : List Operand → Bool
  | .bytes a :: _ => a.length == c.addrLen
  | _ => false

/-- R80, R136: the operands of `w` have the types of its code, and ADEC's list has the bytes of one address. -/
def rightShape (c : Config) (w : HostWord) : Bool :=
  signatures.lookup w.code == some (w.args.map sortOf) && (w.code != 0x31 || startsWithAddress c w.args)

/-- R43, R106 to R108: the state after an RXBYTE that stores `v` in the frame buffer: an overflow when the buffer is full,
else one more byte. -/
def afterStore (v : Byte) (s : State) : State :=
  if s.buf.length = s.cfg.cap then
    { s with rx := .idle, esc := false, buf := [], ev := s.ev ++ [.log (.malformedFrame .overflow)],
             opi := s.opi + 1, out := some (.ok .unit) }
  else { s with esc := false, buf := s.buf ++ [v], opi := s.opi + 1, out := some (.ok .unit) }

/-- R131: an SSID suffix that is accepted. -/
abbrev GoodSuffix (sfx : Text) : Prop :=
  sfx ≠ [] ∧ (∀ d ∈ sfx, 0x30 ≤ d ∧ d ≤ 0x39) ∧ value sfx ≤ 15

/-- R65: an address field is the bytes of its characters and one byte more. It holds with this hardware's parameters;
R7 does not ask it of a `Config` (log entry 15). -/
abbrev AddressShape (c : Config) : Prop := c.addrLen = c.callLen + 1

/-- R132 to R134: the bytes of an address, from its callsign portion and its SSID. -/
def addressBytes (c : Config) (cs : Text) (ssid : Nat) (cmd last : Bool) : List Byte :=
  (cs.take c.callLen ++ List.replicate (c.callLen - min c.callLen cs.length) 0x20).map (fun ch : Byte => ch <<< 1) ++
    [(if cmd then 0x80 else 0x00) ||| 0x60 ||| (BitVec.ofNat 8 ssid <<< 1) ||| (if last then 0x01 else 0x00)]

/-- R142: a callsign of 1 to `CALL_LEN` characters, each in A..Z or 0..9. -/
abbrev PlainCall (c : Config) (x : Text) : Prop :=
  1 ≤ x.length ∧ x.length ≤ c.callLen ∧ ∀ ch ∈ x, (0x41 ≤ ch ∧ ch ≤ 0x5A) ∨ (0x30 ≤ ch ∧ ch ≤ 0x39)

/-- R195: the header of a source, a destination and repeaters. -/
def headerOf (c : Config) (src dst : List Byte) (reps : List (List Byte)) : Text :=
  (decodeAddr c src false).1 ++ [0x3E] ++ (decodeAddr c dst false).1 ++
    reps.flatMap (fun r => 0x2C :: (decodeAddr c r true).1)

/-- R141: the C bit of an address field. -/
def cBit (c : Config) (a : List Byte) : Bool := (a.getD c.callLen 0).getLsbD 7

/-- R66: the extension bit of an address field. -/
def eBit (c : Config) (a : List Byte) : Bool := (a.getD c.callLen 0).getLsbD 0

/-- R196: the table. -/
def crOf (c : Config) (dst src : List Byte) : CmdResp :=
  if cBit c dst = true ∧ cBit c src = false then .command
  else if cBit c dst = false ∧ cBit c src = true then .response
  else .none

/-- R198: the label of control byte `b`. -/
def labelOf (b : Byte) (cr : CmdResp) : PfLabel :=
  if b.getLsbD 0 = false ∧ b.getLsbD 4 = true then
    match cr with
    | .command => .p
    | .response => .f
    | .none => .none
  else .none

/-- R178, R199: I and UI control bytes. -/
def bearsPayload (b : Byte) : Bool := b.getLsbD 0 == false || b &&& 0xEF == 0x03

/-- R74, R194: an address chain from the source on: every address but the last says more follow, the last says none. -/
abbrev EndedChain (c : Config) (chain : List (List Byte)) : Prop :=
  (∀ a ∈ chain, a.length = c.addrLen) ∧ (∀ a ∈ chain.dropLast, eBit c a = false) ∧
  eBit c (chain.getLastD []) = true

/-- The instructions of the receive side: RXBYTE and its rows. -/
def isReceive : Instr → Bool
  | .rxByte _ => true
  | .rxIdleFend => true
  | .rxIdleOther _ => true
  | .rxInFrameFend => true
  | .rxInFrameFesc => true
  | .rxInFrameTfend => true
  | .rxInFrameTfesc => true
  | .rxInFrameOther _ => true
  | _ => false

/-- R81: the ranges of the reserved codes. -/
abbrev ReservedCode (code : Byte) : Prop :=
  code = 0x00 ∨ (0x03 ≤ code ∧ code ≤ 0x0F) ∨ (0x12 ≤ code ∧ code ≤ 0x1F) ∨ (0x21 ≤ code ∧ code ≤ 0x2F) ∨
  (0x32 ≤ code ∧ code ≤ 0x3F) ∨ (0x42 ≤ code ∧ code ≤ 0x4F) ∨ 0x51 ≤ code

/-- R203, R224: in a history every delivered frame is not empty and is followed at once by the one event that reports
it, and no trace, non-data or interpreter event stands anywhere else. -/
def reported (c : Config) : List Event → Bool
  | [] => true
  | .frame f :: e :: rest => !f.isEmpty && e == reportEvent (interpret c f) && reported c rest
  | .frame _ :: [] => false
  | .trace _ :: _ => false
  | .nonData _ :: _ => false
  | .log (.malformedFrame .overflow) :: rest => reported c rest
  | .log (.malformedFrame .empty) :: _ => false
  | .log (.malformedFrame .addressOverrun) :: _ => false
  | .log (.malformedFrame .noControl) :: _ => false
  | .log (.malformedFrame .noPid) :: _ => false
  | .log (.transportFailure _) :: rest => reported c rest
  | .log .invalidAddress :: _ => false
  | .write _ _ :: rest => reported c rest

/-- R81: RESERVED_OP. -/
def isReservedOp : Instr → Bool
  | .reservedOp _ => true
  | _ => false

end Sys2Proof
end

