-- ==== Sys2Proof/Certificates/Slice0/Obligations.lean ====
section
/-! DEFINITION. The statements for the provers, one def each. -/

open Sys2Proof Sys2Proof.Machine

/-! ## Words and steps -/

/-- Words written out from R80, R81, R68 to R71 and R101, one for each family, decode to their instructions. -/
def Obligations.SpecWordsDecode : Prop :=
  decode hw (.hostop ⟨0x01, []⟩) = .ok .openSession ∧
  decode hw (.hostop ⟨0x20, [.byte 0x00, .bytes [0x41, 0xC0]]⟩) = .ok (.txFrame 0x00 [0x41, 0xC0]) ∧
  decode hw (.hostop ⟨0x31, [.bytes [0x84, 0x60, 0x84, 0x84, 0x84, 0x40, 0xE0], .bool false]⟩) =
    .ok (.adec [0x84, 0x60, 0x84, 0x84, 0x84, 0x40, 0xE0] false) ∧
  decode hw (.ctrl8 0b01010010) = .ok (.ctrlI 1 2 1) ∧
  decode hw (.ctrl8 0b01000001) = .ok (.ctrlRR 2 0) ∧
  decode hw (.ctrl8 0b01111111) = .ok (.ctrlSABME 1) ∧
  decode hw (.rxClass .idle 0xDB) = .ok (.rxIdleOther 0xDB) ∧
  decode hw (.rxClass .inFrame 0xDB) = .ok .rxInFrameFesc

/-- R22: under distinct framing constants the operation at `opi` that decodes is run, and `step` adds nothing around
it. -/
def Obligations.StepRunsDecodedOperation : Prop :=
  ∀ (s : State) (w : HostWord) (i : Instr),
    s.cfg.distinct = true → s.prog[s.opi]? = some w → decode s.cfg (.hostop w) = .ok i → step s = exec i s

/-- The MODEL's choice (log entry 4): past the end of the program there is no operation, and `step` stops. -/
def Obligations.StepStopsPastProgram : Prop :=
  ∀ s : State, s.cfg.distinct = true → s.prog[s.opi]? = none → step s = .fault .noOperation

/-- R81: reserved codes and operands of the wrong type or shape are refused, in every state; the others decode. -/
def Obligations.RefusedWords : Prop :=
  (∀ (s : State) (w : HostWord), s.cfg.distinct = true → s.prog[s.opi]? = some w →
    (ReservedCode w.code → step s = .refused .illegalOperation) ∧
    (¬ ReservedCode w.code → rightShape s.cfg w = false → step s = .refused .badOperand)) ∧
  (∀ (c : Config) (w : HostWord), rightShape c w = true → ∃ i, decode c (.hostop w) = .ok i ∧ isReservedOp i = false) ∧
  (∀ (code : Byte) (s : State), exec (.reservedOp code) s = .refused .illegalOperation)

/-- Every well-formed instruction decodes from the word the encoder gives it, under any parameters R8 allows. -/
def Obligations.DecodeOfEncode : Prop :=
  ∀ (c : Config) (i : Instr), c.distinct = true → wellFormed c i = true → decode c (encode c i) = .ok i

/-- What a word decodes to is well formed, and but for RESERVED_OP (whose operands are dropped) it encodes to the word. -/
def Obligations.EncodeOfDecode : Prop :=
  ∀ (c : Config) (w : TableWord) (i : Instr), decode c w = .ok i →
    wellFormed c i = true ∧ (isReservedOp i = false → encode c i = w)

/-- R8, R101: this hardware's framing constants are distinct, and each byte has the class its rule says. That every
step under constants that are not distinct is refused `badConfig`, ahead of R248's order, is the MODEL's choice (log
entry 12, DEDUCED from R8 and R273): R8 refuses the `Config`, and no rule names a refusal of the operation. -/
def Obligations.ByteClasses : Prop :=
  hw.distinct = true ∧
  (∀ c : Config, c.distinct = true ↔ [c.fend, c.fesc, c.tfend, c.tfesc].Nodup) ∧
  (∀ s : State, s.cfg.distinct = false → step s = .refused .badConfig) ∧
  ∀ (c : Config) (b : Byte), c.distinct = true →
    (classOf c b = .fend ↔ b = c.fend) ∧ (classOf c b = .fesc ↔ b = c.fesc) ∧
    (classOf c b = .tfend ↔ b = c.tfend) ∧ (classOf c b = .tfesc ↔ b = c.tfesc) ∧
    (classOf c b = .other ↔ b ≠ c.fend ∧ b ≠ c.fesc ∧ b ≠ c.tfend ∧ b ≠ c.tfesc)

/-! ## Reset, preconditions, session -/

/-- R270. -/
def Obligations.ResetState : Prop :=
  State.reset.isOpen = false ∧ State.reset.fatal = false ∧ State.reset.rx = .idle ∧ State.reset.esc = false ∧
  State.reset.buf = [] ∧ State.reset.ev = [] ∧ State.reset.opi = 0

/-- R225: who is refused `Halted`, who is refused `NotOpen`, and that an operation that needs no session runs without
one. The framer's rows are cases of RXBYTE. -/
def Obligations.SessionRequirement : Prop :=
  ∀ (i : Instr) (s : State), wellFormed s.cfg i = true → isReservedOp i = false →
    (s.fatal = true → exec i s = .refused .halted) ∧
    (s.fatal = false → needsSession i = true → s.isOpen = false → exec i s = .refused .notOpen) ∧
    (s.fatal = false → needsSession i = false → ∃ t, exec i s = .next t)

/-- R220: OPEN, its code and its effect. -/
def Obligations.OpenSession : Prop :=
  (∀ c : Config, decode c (.hostop ⟨0x01, []⟩) = .ok .openSession) ∧
  ∀ s : State,
    (s.fatal = true → exec .openSession s = .refused .halted) ∧
    (s.fatal = false → exec .openSession s =
      .next { s with isOpen := true, rx := .idle, esc := false, buf := [], opi := s.opi + 1, out := some (.ok .unit) })

/-- R222: CLOSE, its code and its effect. -/
def Obligations.CloseSession : Prop :=
  (∀ c : Config, decode c (.hostop ⟨0x02, []⟩) = .ok .closeSession) ∧
  ∀ s : State,
    (s.fatal = true → exec .closeSession s = .refused .halted) ∧
    (s.fatal = false → s.isOpen = false → exec .closeSession s = .refused .notOpen) ∧
    (s.fatal = false → s.isOpen = true → exec .closeSession s =
      .next { s with isOpen := false, rx := .idle, esc := false, buf := [], opi := s.opi + 1, out := some (.ok .unit) })

/-! ## Receive -/

/-- R102, R104: the delimiter, as RXBYTE and as the table's rows. -/
def Obligations.RxDelimiter : Prop :=
  ∀ s : State, s.fatal = false → s.isOpen = true →
    (s.rx = .idle → ∀ i ∈ [Instr.rxByte s.cfg.fend, Instr.rxIdleFend], exec i s =
      .next { s with rx := .inFrame, esc := false, buf := [], opi := s.opi + 1, out := some (.ok .unit) }) ∧
    (s.rx = .inFrame → s.buf = [] → ∀ i ∈ [Instr.rxByte s.cfg.fend, Instr.rxInFrameFend], exec i s =
      .next { s with rx := .idle, esc := false, buf := [], opi := s.opi + 1, out := some (.ok .unit) }) ∧
    (s.rx = .inFrame → s.buf ≠ [] → ∀ i ∈ [Instr.rxByte s.cfg.fend, Instr.rxInFrameFend], exec i s =
      .next { s with rx := .idle, esc := false, buf := [],
                     ev := s.ev ++ [.frame s.buf, reportEvent (interpret s.cfg s.buf)],
                     opi := s.opi + 1, out := some (.ok .unit) })

/-- R103: in `Idle` any byte but the delimiter is discarded. -/
def Obligations.RxIdleDiscards : Prop :=
  ∀ (s : State) (b : Byte), s.fatal = false → s.isOpen = true → s.rx = .idle → b ≠ s.cfg.fend →
    ∀ i ∈ [Instr.rxByte b, Instr.rxIdleOther b],
      exec i s = .next { s with opi := s.opi + 1, out := some (.ok .unit) }

/-- R105: the escape byte stores nothing. -/
def Obligations.RxEscape : Prop :=
  ∀ s : State, s.cfg.distinct = true → s.fatal = false → s.isOpen = true → s.rx = .inFrame →
    ∀ i ∈ [Instr.rxByte s.cfg.fesc, Instr.rxInFrameFesc],
      exec i s = .next { s with esc := true, opi := s.opi + 1, out := some (.ok .unit) }

/-- R106, R107, R108 with the bounded append of R43: the bytes that are stored, and what is stored for them. -/
def Obligations.RxStores : Prop :=
  ∀ s : State, s.cfg.distinct = true → s.fatal = false → s.isOpen = true → s.rx = .inFrame →
    (∀ i ∈ [Instr.rxByte s.cfg.tfend, Instr.rxInFrameTfend],
      exec i s = .next (afterStore (if s.esc then s.cfg.fend else s.cfg.tfend) s)) ∧
    (∀ i ∈ [Instr.rxByte s.cfg.tfesc, Instr.rxInFrameTfesc],
      exec i s = .next (afterStore (if s.esc then s.cfg.fesc else s.cfg.tfesc) s)) ∧
    (∀ b : Byte, b ≠ s.cfg.fend → b ≠ s.cfg.fesc → b ≠ s.cfg.tfend → b ≠ s.cfg.tfesc →
      ∀ i ∈ [Instr.rxByte b, Instr.rxInFrameOther b], exec i s = .next (afterStore b s))

/-- R43: BufAppend. -/
def Obligations.BoundedAppend : Prop :=
  ∀ (c : Config) (b : Byte) (s : State),
    (s.buf.length = c.cap → bufAppend c b s =
      { s with buf := [], esc := false, rx := .idle, ev := s.ev ++ [.log (.malformedFrame .overflow)] }) ∧
    (s.buf.length ≠ c.cap → bufAppend c b s = { s with buf := s.buf ++ [b] })

/-- R224: Deliver emits the frame and then the one event of its interpretation. -/
def Obligations.DeliverReports : Prop :=
  ∀ (c : Config) (f : List Byte) (s : State),
    (∀ t, interpret c f = .trace t → deliver c f s = { s with ev := s.ev ++ [.frame f, .trace t] }) ∧
    (∀ tag, interpret c f = .nonData tag → deliver c f s = { s with ev := s.ev ++ [.frame f, .nonData tag] }) ∧
    (∀ r, interpret c f = .malformed r →
      deliver c f s = { s with ev := s.ev ++ [.frame f, .log (.malformedFrame r)] })

/-- RXBYTE runs the table's row for the framer's state and the byte's class, in every state. -/
def Obligations.RxByteRunsItsRow : Prop :=
  ∀ (b : Byte) (s : State), exec (.rxByte b) s = exec (decodeRx s.cfg s.rx b) s

/-- The MODEL's choice (log entry 8): a framer row stops in the other framer state, and for a byte outside its class. -/
def Obligations.FramerRowsStopOutsideTheirState : Prop :=
  (∀ s : State, s.fatal = false → s.isOpen = true →
    (s.rx = .inFrame → exec .rxIdleFend s = .refused .rowNotEnabled ∧
      ∀ b : Byte, b ≠ s.cfg.fend → exec (.rxIdleOther b) s = .refused .rowNotEnabled) ∧
    (s.rx = .idle →
      (∀ i ∈ [Instr.rxInFrameFend, Instr.rxInFrameFesc, Instr.rxInFrameTfend, Instr.rxInFrameTfesc],
        exec i s = .refused .rowNotEnabled) ∧
      ∀ b : Byte, classOf s.cfg b = .other → exec (.rxInFrameOther b) s = .refused .rowNotEnabled)) ∧
  (∀ s : State, exec (.rxIdleOther s.cfg.fend) s = .refused .badOperand ∧
    ∀ b : Byte, classOf s.cfg b ≠ .other → exec (.rxInFrameOther b) s = .refused .badOperand)

/-- R223 with an injected answer: each of the three answers. A `Data` outside R221's bounds is no answer of the
transport; what one reads as is the MODEL's choice (log entry 6). -/
def Obligations.RxPollAnswers : Prop :=
  ∀ (s : State) (rest : List ReadAnswer), s.fatal = false → s.isOpen = true →
    (s.reads = .empty :: rest → exec .rxPoll s =
      .next { s with reads := rest, opi := s.opi + 1, out := some (.ok .unit) }) ∧
    (∀ bs, s.reads = .data bs :: rest → 1 ≤ bs.length → bs.length ≤ s.cfg.maxRead → exec .rxPoll s =
      .next { rxBytes s.cfg bs { s with reads := rest } with opi := s.opi + 1, out := some (.ok .unit) }) ∧
    (∀ bs, s.reads = .data bs :: rest → s.cfg.maxRead < bs.length → exec .rxPoll s =
      .next { rxBytes s.cfg (bs.take s.cfg.maxRead) { s with reads := rest } with
                opi := s.opi + 1, out := some (.ok .unit) }) ∧
    (s.reads = .data [] :: rest → exec .rxPoll s =
      .next { s with reads := rest, opi := s.opi + 1, out := some (.ok .unit) }) ∧
    (s.reads = .readError :: rest → exec .rxPoll s =
      .next { s with reads := rest, fatal := true, ev := s.ev ++ [.log (.transportFailure .read)],
                     opi := s.opi + 1, out := some (.fatal (.transportFailure .read)) })

/-- R221: where no answer is injected, a read and a write end as they do for some answer R221 allows. -/
def Obligations.FreeAnswersAreLegal : Prop :=
  (∀ s : State, s.fatal = false → s.isOpen = true → s.reads = [] →
    ∃ a t, (a = .empty ∨ a = .readError ∨ ∃ bs, a = .data bs ∧ 1 ≤ bs.length ∧ bs.length ≤ s.cfg.maxRead) ∧
      exec .rxPoll { s with reads := [a] } = .next t ∧ exec .rxPoll s = .next { t with draw := s.draw + 1 }) ∧
  (∀ (s : State) (tag : Byte) (p : List Byte), s.fatal = false → s.isOpen = true → s.writes = [] →
    ∃ w t, (w = .writeError ∨ ∃ k, w = .written k ∧ k ≤ (txEncode s.cfg tag p).length) ∧
      exec (.txFrame tag p) { s with writes := [w] } = .next t ∧
      exec (.txFrame tag p) s = .next { t with draw := s.draw + 1 })

/-- R221: the answer to a read or a write, injected or free, is one the transport may give, and each that it may give
is taken as it stands. -/
def Obligations.AnswersAreBounded : Prop :=
  (∀ (c : Config) (s : State), ReadAllowed c (readAnswer c s)) ∧
  (∀ (c : Config) (s : State) (a : ReadAnswer), s.reads.head? = some a → ReadAllowed c a → readAnswer c s = a) ∧
  (∀ (s : State) (n : Nat), WriteAllowed n (writeAnswer n s)) ∧
  (∀ (s : State) (n : Nat) (w : WriteAnswer), s.writes.head? = some w → WriteAllowed n w → writeAnswer n s = w)

/-- R115: two ways to split a stream into reads give the same events and the same framer state. -/
def Obligations.StreamSplit : Prop :=
  ∀ (s : State) (as bs : List ReadAnswer) (stream : List Byte), s.fatal = false → s.isOpen = true →
    (∀ a ∈ as ++ bs, ReadAllowed s.cfg a) → readBytes as = some stream → readBytes bs = some stream →
    ∃ t u, runInstrs (List.replicate as.length .rxPoll) { s with reads := as } = .next t ∧
      runInstrs (List.replicate bs.length .rxPoll) { s with reads := bs } = .next u ∧
      u.ev = t.ev ∧ u.rx = t.rx ∧ u.esc = t.esc ∧ u.buf = t.buf ∧ u.reads = t.reads

/-- R83: RXSTREAM does what an RXPOLL does with a read that returns those bytes. -/
def Obligations.RxStreamIsRxPoll : Prop :=
  ∀ (s : State) (bs : List Byte) (rest : List ReadAnswer), s.fatal = false → s.isOpen = true →
    ∃ u, runInstrs (rxStream bs) s = .next u ∧ u.opi = s.opi + bs.length ∧
      (1 ≤ bs.length → bs.length ≤ s.cfg.maxRead →
        ∃ t, exec .rxPoll { s with reads := .data bs :: rest } = .next t ∧
          u.ev = t.ev ∧ u.rx = t.rx ∧ u.esc = t.esc ∧ u.buf = t.buf)

/-- R274: the inverted phase. From an open, empty frame a frame as TXFRAME writes it is lost without an event, and the
phase stays inverted. -/
def Obligations.InvertedPhaseLosesFrames : Prop :=
  ∀ (c : Config) (s : State) (tag : Byte) (p : List Byte), c.distinct = true → s.rx = .inFrame → s.buf = [] →
    tag ≠ c.fend →
    rxBytes c (txEncode c tag p) s = { s with rx := .inFrame, esc := false, buf := [] }

/-- R275: after an overflow the closing delimiter of the long frame opens a frame. -/
def Obligations.OverflowInvertsPhase : Prop :=
  ∀ (c : Config) (s : State) (v : Byte) (tail : List Byte), s.rx = .inFrame → s.buf.length = c.cap →
    classOf c v ≠ .fend → classOf c v ≠ .fesc → c.fend ∉ tail →
    rxBytes c (v :: (tail ++ [c.fend])) s =
      { s with rx := .inFrame, esc := false, buf := [], ev := s.ev ++ [.log (.malformedFrame .overflow)] }

/-- R112, R276: a type tag that equals the delimiter or the escape byte, sent unescaped and received from `Idle`. -/
def Obligations.UnescapedTagIsLost : Prop :=
  ∀ (c : Config) (s : State) (p : List Byte), c.distinct = true → s.rx = .idle →
    rxBytes c (txEncode c c.fend p) s = { s with rx := .inFrame, esc := false, buf := [] } ∧
    (p ≠ [] → p.length ≤ c.cap → p.head? ≠ some c.tfend → p.head? ≠ some c.tfesc →
      rxBytes c (txEncode c c.fesc p) s =
        { s with rx := .idle, esc := false, buf := [], ev := s.ev ++ [.frame p, reportEvent (interpret c p)] })

/-! ## Transmit -/

/-- R110, R111: the encoded bytes and the three answers to the write. -/
def Obligations.TxFrameWrites : Prop :=
  ∀ (s : State) (tag : Byte) (p : List Byte) (w : WriteAnswer) (rest : List WriteAnswer),
    s.fatal = false → s.isOpen = true → s.writes = w :: rest →
    ∀ bytes, bytes = [s.cfg.fend, tag] ++
        p.flatMap (fun b => if b = s.cfg.fend then [s.cfg.fesc, s.cfg.tfend]
          else if b = s.cfg.fesc then [s.cfg.fesc, s.cfg.tfesc] else [b]) ++ [s.cfg.fend] →
      (w = .written bytes.length → exec (.txFrame tag p) s =
        .next { s with writes := rest, ev := s.ev ++ [.write bytes bytes.length],
                       opi := s.opi + 1, out := some (.ok .unit) }) ∧
      (∀ k, w = .written k → k < bytes.length → exec (.txFrame tag p) s =
        .next { s with writes := rest, fatal := true,
                       ev := s.ev ++ [.write bytes k, .log (.transportFailure .write)],
                       opi := s.opi + 1, out := some (.fatal (.transportFailure .write)) }) ∧
      (w = .writeError → exec (.txFrame tag p) s =
        .next { s with writes := rest, fatal := true,
                       ev := s.ev ++ [.write bytes 0, .log (.transportFailure .write)],
                       opi := s.opi + 1, out := some (.fatal (.transportFailure .write)) })

/-- R114: between the tag and the trailing delimiter there is no delimiter, and each escape byte starts a pair. -/
def Obligations.EscapeCorrect : Prop :=
  ∀ (c : Config) (tag : Byte) (p : List Byte), c.distinct = true →
    ∀ middle, middle = ((txEncode c tag p).drop 2).dropLast →
      c.fend ∉ middle ∧
      ∀ i, middle[i]? = some c.fesc →
        middle[i + 1]? = some c.tfend ∨ middle[i + 1]? = some c.tfesc

/-- R113: the framing round trip, and the overflow of a frame that is too long. -/
def Obligations.FramingRoundTrip : Prop :=
  ∀ (s : State) (tag : Byte) (p : List Byte), s.cfg.distinct = true → s.fatal = false → s.isOpen = true →
    s.rx = .idle → tag ≠ s.cfg.fend → tag ≠ s.cfg.fesc →
    ∃ u, runInstrs (rxStream (txEncode s.cfg tag p)) s = .next u ∧
      (p.length + 1 ≤ s.cfg.cap → u.rx = .idle ∧ u.esc = false ∧ u.buf = [] ∧
        u.ev = s.ev ++ [.frame (tag :: p), reportEvent (interpret s.cfg (tag :: p))]) ∧
      (s.cfg.cap < p.length + 1 → u.ev = s.ev ++ [.log (.malformedFrame .overflow)])

/-! ## Addresses -/

/-- R11, R17 (4): `dec` and `value` are inverse, and `dec` writes digits with no leading zero. -/
def Obligations.DecimalText : Prop :=
  (∀ (sfx : Text) (d : Byte), value (sfx ++ [d]) = 10 * value sfx + (d.toNat - 0x30)) ∧
  ∀ n : Nat, value (dec n) = n ∧ (∀ d ∈ dec n, 0x30 ≤ d ∧ d ≤ 0x39) ∧ ((dec n).head? = some 0x30 → n = 0)

/-- R131 to R135: AENC with and without a suffix, accepted and rejected. Under a `Config` whose
`ADDR_LEN` is not `CALL_LEN` + 1 it states the MODEL's choice (log entry 15). -/
def Obligations.AencEncodes : Prop :=
  ∀ (call : Text) (cmd last : Bool) (s : State), s.fatal = false →
    (0x2D ∉ call → exec (.aenc call cmd last) s =
      .next { s with opi := s.opi + 1, out := some (.ok (.bytes (addressBytes s.cfg call 0 cmd last))) }) ∧
    (∀ cs sfx, call = cs ++ 0x2D :: sfx → 0x2D ∉ cs →
      (GoodSuffix sfx → exec (.aenc call cmd last) s =
        .next { s with opi := s.opi + 1, out := some (.ok (.bytes (addressBytes s.cfg cs (value sfx) cmd last))) }) ∧
      (¬ GoodSuffix sfx → exec (.aenc call cmd last) s =
        .next { s with opi := s.opi + 1, out := some (.err .invalidAddress) }))

/-- R136 to R140: ADEC of the characters of an address and its last byte, and its refusal of a list that is not one
address. -/
def Obligations.AdecDecodes : Prop :=
  (∀ (chars : List Byte) (b7 : Byte) (rep : Bool) (s : State), s.fatal = false →
    AddressShape s.cfg → chars.length = s.cfg.callLen →
    exec (.adec (chars ++ [b7]) rep) s =
      .next { s with
        opi := s.opi + 1,
        out := some (.ok (.address
          ((chars.map (fun b : Byte => b >>> 1)).filter (fun ch : Byte => ch != 0x20) ++
            (if ((b7 >>> 1) &&& 0x0F) = 0 then [] else 0x2D :: dec ((b7 >>> 1) &&& 0x0F).toNat) ++
            (if rep = true ∧ b7.getLsbD 7 = true then [0x2A] else []))
          (decide (b7 &&& 0x01 = 0)))) }) ∧
  (∀ (a : List Byte) (rep : Bool) (s : State), a.length ≠ s.cfg.addrLen → exec (.adec a rep) s = .refused .badOperand) ∧
  AddressShape hw ∧ hw.callLen = 6

/-- R142: what AENC encodes, ADEC decodes. -/
def Obligations.AddressRoundTrip : Prop :=
  ∀ (x call : Text) (n : Nat) (cmd last : Bool) (s : State), s.fatal = false → AddressShape s.cfg →
    PlainCall s.cfg x → n ≤ 15 →
    ((call = x ∧ n = 0) ∨ call = x ++ 0x2D :: dec n ∨
      ∃ sfx, sfx ≠ [] ∧ (∀ d ∈ sfx, 0x30 ≤ d ∧ d ≤ 0x39) ∧ value sfx = n ∧ call = x ++ 0x2D :: sfx) →
    ∃ a t u v, exec (.aenc call cmd last) s = .next t ∧ t.out = some (.ok (.bytes a)) ∧
      exec (.adec a false) t = .next u ∧
      u.out = some (.ok (.address (x ++ if n = 0 then [] else 0x2D :: dec n) (!last))) ∧
      exec (.adec a true) t = .next v ∧
      v.out = some (.ok (.address
        ((x ++ if n = 0 then [] else 0x2D :: dec n) ++ if cmd then [0x2A] else []) (!last)))

/-! ## Control bytes -/

/-- R162 to R166: I and S control bytes, by CCLASS, and their rows; which of them bear a payload. -/
def Obligations.ClassifyIS : Prop :=
  (∀ (ns nr : BitVec 3) (pf : BitVec 1), carriesPayload (.i ns nr pf) = true) ∧
  (∀ (t : SType) (nr : BitVec 3) (pf : BitVec 1), carriesPayload (.s t nr pf) = false) ∧
  ∀ s : State, s.fatal = false →
    (∀ c : Byte, c &&& 0x01 = 0x00 → exec (.cclass c) s =
      .next { s with opi := s.opi + 1,
                     out := some (.ok (.kind (.i (c.extractLsb' 1 3) (c.extractLsb' 5 3) (c.extractLsb' 4 1)))) }) ∧
    (∀ (c : Byte) (sel : Byte) (t : SType),
      (sel, t) ∈ [((0x01 : Byte), SType.rr), (0x05, SType.rnr), (0x09, SType.rej), (0x0D, SType.srej)] →
      c &&& 0x0F = sel → exec (.cclass c) s =
        .next { s with opi := s.opi + 1,
                       out := some (.ok (.kind (.s t (c.extractLsb' 5 3) (c.extractLsb' 4 1)))) }) ∧
    (∀ (ns nr : BitVec 3) (pf : BitVec 1), exec (.ctrlI ns nr pf) s =
      .next { s with opi := s.opi + 1, out := some (.ok (.kind (.i ns nr pf))) }) ∧
    (∀ (nr : BitVec 3) (pf : BitVec 1) (i : Instr) (t : SType),
      (i, t) ∈ [(Instr.ctrlRR nr pf, SType.rr), (Instr.ctrlRNR nr pf, SType.rnr), (Instr.ctrlREJ nr pf, SType.rej),
        (Instr.ctrlSREJ nr pf, SType.srej)] →
      exec i s = .next { s with opi := s.opi + 1, out := some (.ok (.kind (.s t nr pf))) })

/-- R167: the row S_UNKNOWN gives kind Unknown (log entry 8), and no control byte is of that type. -/
def Obligations.SUnknownRow : Prop :=
  (∀ (s : State) (nr : BitVec 3) (pf : BitVec 1) (ss : BitVec 2), s.fatal = false →
    exec (.ctrlSUnknown nr pf ss) s =
      .next { s with opi := s.opi + 1, out := some (.ok (.kind (.s .unknown nr pf))) }) ∧
  ∀ (c : Byte) (nr : BitVec 3) (pf : BitVec 1), classify c ≠ .s .unknown nr pf

/-- R168 to R177: U control bytes, by CCLASS, and their rows; UI alone bears a payload. -/
def Obligations.ClassifyU : Prop :=
  (∀ (t : UType) (pf : BitVec 1), carriesPayload (.u t pf) = true ↔ t = .ui) ∧
  ∀ s : State, s.fatal = false →
    (∀ (c : Byte) (sel : Byte) (t : UType),
      (sel, t) ∈ [((0x6F : Byte), UType.sabme), (0x2F, UType.sabm), (0x43, UType.disc), (0x0F, UType.dm),
        (0x63, UType.ua), (0x87, UType.frmr), (0x03, UType.ui), (0xAF, UType.xid), (0xE3, UType.test)] →
      c &&& 0xEF = sel → exec (.cclass c) s =
        .next { s with opi := s.opi + 1, out := some (.ok (.kind (.u t (c.extractLsb' 4 1)))) }) ∧
    (∀ c : Byte, c &&& 0x03 = 0x03 →
      c &&& 0xEF ∉ [(0x6F : Byte), 0x2F, 0x43, 0x0F, 0x63, 0x87, 0x03, 0xAF, 0xE3] →
      exec (.cclass c) s =
        .next { s with opi := s.opi + 1, out := some (.ok (.kind (.u .unknown (c.extractLsb' 4 1)))) }) ∧
    (∀ (pf : BitVec 1) (i : Instr) (t : UType),
      (i, t) ∈ [(Instr.ctrlSABME pf, UType.sabme), (Instr.ctrlSABM pf, UType.sabm), (Instr.ctrlDISC pf, UType.disc),
        (Instr.ctrlDM pf, UType.dm), (Instr.ctrlUA pf, UType.ua), (Instr.ctrlFRMR pf, UType.frmr),
        (Instr.ctrlUI pf, UType.ui), (Instr.ctrlXID pf, UType.xid), (Instr.ctrlTEST pf, UType.test)] →
      exec i s = .next { s with opi := s.opi + 1, out := some (.ok (.kind (.u t pf))) }) ∧
    (∀ (mHi : BitVec 3) (pf : BitVec 1) (mLo : BitVec 2), wellFormed s.cfg (.ctrlUUnknown mHi pf mLo) = true →
      exec (.ctrlUUnknown mHi pf mLo) s = .next { s with opi := s.opi + 1, out := some (.ok (.kind (.u .unknown pf))) })

/-- R161: CCLASS runs the table's row of its control byte, in every state. -/
def Obligations.CclassRunsItsRow : Prop :=
  ∀ (c : Byte) (s : State), exec (.cclass c) s = exec (decodeCtrl c) s

/-- R178. -/
def Obligations.PayloadBearing : Prop :=
  ∀ k : Kind, carriesPayload k = true ↔ (∃ ns nr pf, k = .i ns nr pf) ∨ ∃ pf, k = .u .ui pf

/-! ## Frames -/

/-- R191, R192, and the first check of R193: frames that end before an address is decoded. -/
def Obligations.FinterpEarlyEnds : Prop :=
  ∀ s : State, s.fatal = false →
    exec (.finterp []) s = .next { s with opi := s.opi + 1, out := some (.err (.malformedFrame .empty)) } ∧
    (∀ (tag : Byte) (p : List Byte), tag ≠ s.cfg.dataTag → exec (.finterp (tag :: p)) s =
      .next { s with opi := s.opi + 1, out := some (.ok (.nonData tag)) }) ∧
    (∀ p : List Byte, p.length < 2 * s.cfg.addrLen → exec (.finterp (s.cfg.dataTag :: p)) s =
      .next { s with opi := s.opi + 1, out := some (.err (.malformedFrame .addressOverrun)) })

/-- R194: a chain whose addresses all say more follow, and then fewer bytes than one address has. Under a `Config` whose
`ADDR_LEN` is not `CALL_LEN` + 1 it states the MODEL's choice (log entry 15). -/
def Obligations.FinterpOverrun : Prop :=
  ∀ (s : State) (dst src : List Byte) (reps : List (List Byte)) (rest : List Byte), s.fatal = false →
    dst.length = s.cfg.addrLen → (∀ a ∈ src :: reps, a.length = s.cfg.addrLen ∧ eBit s.cfg a = false) →
    rest.length < s.cfg.addrLen →
    exec (.finterp (s.cfg.dataTag :: (dst ++ src ++ reps.flatten ++ rest))) s =
      .next { s with opi := s.opi + 1, out := some (.err (.malformedFrame .addressOverrun)) }

/-- R195 to R200: a frame with a complete address chain. The destination's extension bit plays no part. Under a
`Config` whose `ADDR_LEN` is not `CALL_LEN` + 1 it states the MODEL's choice (log entry 15). -/
def Obligations.FinterpInterprets : Prop :=
  ∀ (s : State) (dst src : List Byte) (reps : List (List Byte)), s.fatal = false →
    dst.length = s.cfg.addrLen → EndedChain s.cfg (src :: reps) →
    exec (.finterp (s.cfg.dataTag :: (dst ++ src ++ reps.flatten))) s =
      .next { s with opi := s.opi + 1, out := some (.err (.malformedFrame .noControl)) } ∧
    (∀ (b : Byte), bearsPayload b = true →
      exec (.finterp (s.cfg.dataTag :: (dst ++ src ++ reps.flatten ++ [b]))) s =
        .next { s with opi := s.opi + 1, out := some (.err (.malformedFrame .noPid)) }) ∧
    (∀ (b pid : Byte) (payload : List Byte), bearsPayload b = true →
      exec (.finterp (s.cfg.dataTag :: (dst ++ src ++ reps.flatten ++ b :: pid :: payload))) s =
        .next { s with opi := s.opi + 1,
                       out := some (.ok (.trace ⟨headerOf s.cfg src dst reps, crOf s.cfg dst src, classify b,
                         labelOf b (crOf s.cfg dst src), some payload⟩)) }) ∧
    (∀ (b : Byte) (after : List Byte), bearsPayload b = false →
      exec (.finterp (s.cfg.dataTag :: (dst ++ src ++ reps.flatten ++ b :: after))) s =
        .next { s with opi := s.opi + 1,
                       out := some (.ok (.trace ⟨headerOf s.cfg src dst reps, crOf s.cfg dst src, classify b,
                         labelOf b (crOf s.cfg dst src), none⟩)) })

/-- R204: what FINTERP answers depends on the frame (and the fixed parameters) alone, and is the same again. -/
def Obligations.FinterpIsPure : Prop :=
  ∀ (f : List Byte) (s s' t t' : State), s.cfg = s'.cfg →
    exec (.finterp f) s = .next t → exec (.finterp f) s' = .next t' → t.out = t'.out ∧ t.ev = s.ev

/-- R206, R207: the frame BUILD composes, with any padding bytes the source gives. Under a `Config` whose
`ADDR_LEN` is not `CALL_LEN` + 1 it states the MODEL's choice (log entry 15). -/
def Obligations.BuildComposes : Prop :=
  ∀ (dst src : Text) (lit : List Byte) (total : Nat) (s : State) (d a : List Byte), s.fatal = false →
    s.cfg.padLo ≤ s.cfg.padHi →
    encodeAddr s.cfg dst true false = some d → encodeAddr s.cfg src false true = some a →
    ∃ t pad, exec (.build dst src lit total) s = .next t ∧
      t.out = some (.ok (.bytes (d ++ a ++ [s.cfg.ctrlUi, s.cfg.pidNone] ++ lit ++ pad))) ∧
      pad.length = total - lit.length ∧
      (∀ r ∈ pad, s.cfg.padLo ≤ r ∧ r ≤ s.cfg.padHi) ∧
      (d ++ a ++ [s.cfg.ctrlUi, s.cfg.pidNone] ++ lit ++ pad).length =
        2 * (s.cfg.callLen + 1) + 2 + max total lit.length ∧
      ((∀ r ∈ s.pads.take (total - lit.length), s.cfg.padLo ≤ r ∧ r ≤ s.cfg.padHi) →
        total - lit.length ≤ s.pads.length →
        pad = s.pads.take (total - lit.length))

/-- R208, R246: a bad SSID in either address ends BUILD in Err, with nothing built, drawn or emitted. -/
def Obligations.BuildRejects : Prop :=
  ∀ (dst src : Text) (lit : List Byte) (total : Nat) (s : State), s.fatal = false →
    (encodeAddr s.cfg dst true false = none ∨ encodeAddr s.cfg src false true = none) →
    exec (.build dst src lit total) s = .next { s with opi := s.opi + 1, out := some (.err .invalidAddress) }

/-- R209: what BUILD builds, `Interpret` reads as a UI command with no repeaters and with the literal and the padding
bytes drawn, the very ones in the frame, as payload. -/
def Obligations.BuildInterpretLaw : Prop :=
  ∀ (dst src : Text) (lit : List Byte) (total : Nat) (s t : State) (p : List Byte),
    AddressShape s.cfg → s.cfg.ctrlUi = 0x03 →
    exec (.build dst src lit total) s = .next t → t.out = some (.ok (.bytes p)) →
    ∃ d a pad, encodeAddr s.cfg dst true false = some d ∧ encodeAddr s.cfg src false true = some a ∧
      pad = padBytes s.cfg (total - lit.length) s ∧ p = d ++ a ++ [s.cfg.ctrlUi, s.cfg.pidNone] ++ lit ++ pad ∧
      pad.length = total - lit.length ∧
      interpret s.cfg (s.cfg.dataTag :: p) =
        .trace ⟨(decodeAddr s.cfg a false).1 ++ [0x3E] ++ (decodeAddr s.cfg d false).1, .command, .u .ui 0, .none,
          some (lit ++ pad)⟩

/-- R83: SENDTEST is BUILD and then, unless BUILD ends in Err, TXFRAME of what it built. -/
def Obligations.SendTestExpands : Prop :=
  ∀ (dst src : Text) (lit : List Byte) (total : Nat) (s t : State),
    exec (.build dst src lit total) s = .next t →
    (∀ p, t.out = some (.ok (.bytes p)) → sendTest dst src lit total s = exec (.txFrame s.cfg.dataTag p) t) ∧
    (t.out = some (.err .invalidAddress) → sendTest dst src lit total s = .next t)

/-! ## The whole machine -/

/-- R22, R54: every operation that is not refused advances `opi` by exactly 1, and none writes the program or the
parameters. -/
def Obligations.OpiAdvances : Prop :=
  ∀ (i : Instr) (s t : State), exec i s = .next t → t.opi = s.opi + 1 ∧ t.prog = s.prog ∧ t.cfg = s.cfg

/-- R27: no operation removes or rewrites an event. -/
def Obligations.HistoryGrows : Prop :=
  ∀ (i : Instr) (s t : State), exec i s = .next t → ∃ es, t.ev = s.ev ++ es

/-- The history is written and never read: another history in the same state changes nothing but itself. -/
def Obligations.HistoryIsNeverRead : Prop :=
  ∀ (i : Instr) (s : State) (h : List Event),
    (∀ t, exec i s = .next t →
      ∃ es, t.ev = s.ev ++ es ∧ exec i { s with ev := h } = .next { t with ev := h ++ es }) ∧
    (∀ r, exec i s = .refused r → exec i { s with ev := h } = .refused r)

/-- R24, R244: only a transport failure of RXPOLL or TXFRAME sets `fatal`, it reports itself last, and the session and
the framer stay as they were. -/
def Obligations.OnlyTransportFailureIsFatal : Prop :=
  ∀ (i : Instr) (s t : State), exec i s = .next t → t.fatal = true →
    ∃ d, (i = .rxPoll ∧ d = .read ∨ (∃ tag p, i = .txFrame tag p) ∧ d = .write) ∧
      t.out = some (.fatal (.transportFailure d)) ∧
      t.ev.getLast? = some (.log (.transportFailure d)) ∧
      t.isOpen = s.isOpen ∧ t.rx = s.rx ∧ t.esc = s.esc ∧ t.buf = s.buf

/-- R35: the frame of the pure operations. BUILD may also take padding draws, which are the model's fields. -/
def Obligations.PureFrame : Prop :=
  ∀ (i : Instr) (s t : State), isPure i = true → exec i s = .next t →
    t.isOpen = s.isOpen ∧ t.fatal = s.fatal ∧ t.rx = s.rx ∧ t.esc = s.esc ∧ t.ev = s.ev ∧
    (∀ a, bufRead a t = bufRead a s) ∧ t.opi = s.opi + 1 ∧ t.prog = s.prog ∧ t.cfg = s.cfg ∧
    t.reads = s.reads ∧ t.writes = s.writes ∧
    ((∀ dst src lit total, i ≠ .build dst src lit total) → t.pads = s.pads ∧ t.draw = s.draw)

/-- R56: the frame of TXFRAME: it reads and writes no framer field. -/
def Obligations.TxFrameFrame : Prop :=
  ∀ (tag : Byte) (p : List Byte) (s t : State), exec (.txFrame tag p) s = .next t →
    t.rx = s.rx ∧ t.esc = s.esc ∧ (∀ a, bufRead a t = bufRead a s) ∧
    t.isOpen = s.isOpen ∧ t.cfg = s.cfg ∧ t.prog = s.prog ∧ t.reads = s.reads ∧ t.pads = s.pads ∧
    ∀ (rx : RxState) (esc : Bool) (buf : List Byte),
      exec (.txFrame tag p) { s with rx := rx, esc := esc, buf := buf } =
        .next { t with rx := rx, esc := esc, buf := buf }

/-- The frame of RXBYTE and its rows, byte by byte of the frame buffer: a stored byte lands at `|buf|`, the other bytes
stay; an escape and a discarded byte store nothing; a delimiter and an overflow leave no byte. -/
def Obligations.ReceiveFrame : Prop :=
  ∀ (i : Instr) (s t : State), s.cfg.distinct = true → isReceive i = true → exec i s = .next t →
    (t.isOpen = s.isOpen ∧ t.fatal = s.fatal ∧ t.cfg = s.cfg ∧ t.prog = s.prog ∧ t.reads = s.reads ∧
      t.writes = s.writes ∧ t.pads = s.pads ∧ t.draw = s.draw) ∧
    (i = .rxInFrameFesc ∨ (∃ b, i = .rxIdleOther b) ∨ (i = .rxByte s.cfg.fesc ∧ s.rx = .inFrame) ∨
      (∃ b, i = .rxByte b ∧ b ≠ s.cfg.fend ∧ s.rx = .idle) → ∀ a, bufRead a t = bufRead a s) ∧
    (i = .rxIdleFend ∨ i = .rxInFrameFend ∨ i = .rxByte s.cfg.fend → ∀ a, bufRead a t = none) ∧
    (i = .rxInFrameTfend ∨ i = .rxInFrameTfesc ∨ (∃ b, i = .rxInFrameOther b) ∨
      (∃ b, i = .rxByte b ∧ b ≠ s.cfg.fend ∧ b ≠ s.cfg.fesc ∧ s.rx = .inFrame) →
      (s.buf.length ≠ s.cfg.cap → ∀ a, a ≠ s.buf.length → bufRead a t = bufRead a s) ∧
      (s.buf.length ≠ s.cfg.cap → ∃ v, bufRead s.buf.length t = some v) ∧
      (s.buf.length = s.cfg.cap → ∀ a, bufRead a t = none))

/-- The frame of OPEN and CLOSE, and of RXPOLL for the fields outside the framer. -/
def Obligations.SessionFrame : Prop :=
  (∀ (i : Instr) (s t : State), i = .openSession ∨ i = .closeSession → exec i s = .next t →
    t.fatal = s.fatal ∧ t.ev = s.ev ∧ t.cfg = s.cfg ∧ t.prog = s.prog ∧ t.reads = s.reads ∧ t.writes = s.writes ∧
    t.pads = s.pads ∧ t.draw = s.draw ∧ ∀ a, bufRead a t = none) ∧
  (∀ s t : State, exec .rxPoll s = .next t →
    t.isOpen = s.isOpen ∧ t.cfg = s.cfg ∧ t.prog = s.prog ∧ t.writes = s.writes ∧ t.pads = s.pads ∧
    (s.reads.head? = some .empty ∨ s.reads.head? = some .readError →
      t.rx = s.rx ∧ t.esc = s.esc ∧ ∀ a, bufRead a t = bufRead a s))

/-- The invariant of R29 holds at reset, under any parameters. -/
def Obligations.ResetKeepsInvariant : Prop :=
  Inv State.reset ∧ ∀ c : Config, Inv (State.resetWith c)

/-- R29: the invariants hold at reset, whatever parameters, program and answers are placed, and every step keeps
them. -/
def Obligations.InvariantsHold : Prop :=
  (∀ cfg prog reads writes pads draw,
    Inv { State.reset with cfg := cfg, prog := prog, reads := reads, writes := writes, pads := pads, draw := draw }) ∧
  ∀ s t : State, Inv s → step s = .next t → Inv t

/-- R203: one line per delivered frame, right after its Frame event: every step keeps a well-reported history. -/
def Obligations.OneLinePerFrame : Prop :=
  (∀ c : Config, reported c State.reset.ev = true) ∧
  ∀ s t : State, reported s.cfg s.ev = true → step s = .next t → reported t.cfg t.ev = true

/-- R259: the exit status of a run from any state: none when the run stops at a refusal, else failure exactly when its
final state is fatal. A run is over when `fatal` is true or no operation is left (log entry 13), it stops at a refused
operation, and it goes on after every other. -/
def Obligations.ExitStatusIsFatal : Prop :=
  (∀ (s t : State) (r : Refusal), runHost s = .stopped t r → exitStatus (runHost s) = none) ∧
  (∀ s t : State, runHost s = .ended t →
    (t.fatal = true → exitStatus (runHost s) = some .failure) ∧
    (t.fatal = false → exitStatus (runHost s) = some .success)) ∧
  (∀ s : State, s.fatal = true ∨ s.prog.length ≤ s.opi → runHost s = .ended s) ∧
  (∀ s : State, s.fatal = false → s.opi < s.prog.length →
    (∀ r, step s = .refused r → runHost s = .stopped s r) ∧
    (∀ t, step s = .next t → runHost s = runHost t))

/-- R202: the lines that are not trace records. -/
def Obligations.ReportLines : Prop :=
  (∀ tag : Byte, eventText (.nonData tag) =
    some (ascii "message of type 0x" ++
      [(ascii "0123456789ABCDEF").getD (tag.toNat / 16) 0, (ascii "0123456789ABCDEF").getD (tag.toNat % 16) 0] ++
      ascii " received")) ∧
  eventText (.log (.malformedFrame .overflow)) = some (ascii "malformed frame: Overflow") ∧
  eventText (.log (.malformedFrame .empty)) = some (ascii "malformed frame: Empty") ∧
  eventText (.log (.malformedFrame .addressOverrun)) = some (ascii "malformed frame: AddressOverrun") ∧
  eventText (.log (.malformedFrame .noControl)) = some (ascii "malformed frame: NoControl") ∧
  eventText (.log (.malformedFrame .noPid)) = some (ascii "malformed frame: NoPid") ∧
  eventText (.log (.transportFailure .read)) = some (ascii "transport failure: read") ∧
  eventText (.log (.transportFailure .write)) = some (ascii "transport failure: write")
end

