-- ==== Sys2Proof/Laws/State.lean ====
section
/-! SUPPORT. What each field is after each update of the state: one lemma per field per update, so that no proof
unfolds a record update. -/

namespace Sys2Proof.Machine

/-! ## emit -/

@[simp] theorem emit_isOpen (e : Event) (s : State) : (emit e s).isOpen = s.isOpen := rfl
@[simp] theorem emit_fatal (e : Event) (s : State) : (emit e s).fatal = s.fatal := rfl
@[simp] theorem emit_rx (e : Event) (s : State) : (emit e s).rx = s.rx := rfl
@[simp] theorem emit_esc (e : Event) (s : State) : (emit e s).esc = s.esc := rfl
@[simp] theorem emit_buf (e : Event) (s : State) : (emit e s).buf = s.buf := rfl
@[simp] theorem emit_ev (e : Event) (s : State) : (emit e s).ev = s.ev ++ [e] := rfl
@[simp] theorem emit_opi (e : Event) (s : State) : (emit e s).opi = s.opi := rfl
@[simp] theorem emit_prog (e : Event) (s : State) : (emit e s).prog = s.prog := rfl
@[simp] theorem emit_cfg (e : Event) (s : State) : (emit e s).cfg = s.cfg := rfl
@[simp] theorem emit_out (e : Event) (s : State) : (emit e s).out = s.out := rfl
@[simp] theorem emit_reads (e : Event) (s : State) : (emit e s).reads = s.reads := rfl
@[simp] theorem emit_writes (e : Event) (s : State) : (emit e s).writes = s.writes := rfl
@[simp] theorem emit_pads (e : Event) (s : State) : (emit e s).pads = s.pads := rfl
@[simp] theorem emit_draw (e : Event) (s : State) : (emit e s).draw = s.draw := rfl

/-! ## finish -/

@[simp] theorem finish_isOpen (o : OpOutcome) (s : State) : (finish o s).isOpen = s.isOpen := rfl
@[simp] theorem finish_fatal (o : OpOutcome) (s : State) : (finish o s).fatal = s.fatal := rfl
@[simp] theorem finish_rx (o : OpOutcome) (s : State) : (finish o s).rx = s.rx := rfl
@[simp] theorem finish_esc (o : OpOutcome) (s : State) : (finish o s).esc = s.esc := rfl
@[simp] theorem finish_buf (o : OpOutcome) (s : State) : (finish o s).buf = s.buf := rfl
@[simp] theorem finish_ev (o : OpOutcome) (s : State) : (finish o s).ev = s.ev := rfl
@[simp] theorem finish_opi (o : OpOutcome) (s : State) : (finish o s).opi = s.opi + 1 := rfl
@[simp] theorem finish_prog (o : OpOutcome) (s : State) : (finish o s).prog = s.prog := rfl
@[simp] theorem finish_cfg (o : OpOutcome) (s : State) : (finish o s).cfg = s.cfg := rfl
@[simp] theorem finish_out (o : OpOutcome) (s : State) : (finish o s).out = some o := rfl
@[simp] theorem finish_reads (o : OpOutcome) (s : State) : (finish o s).reads = s.reads := rfl
@[simp] theorem finish_writes (o : OpOutcome) (s : State) : (finish o s).writes = s.writes := rfl
@[simp] theorem finish_pads (o : OpOutcome) (s : State) : (finish o s).pads = s.pads := rfl
@[simp] theorem finish_draw (o : OpOutcome) (s : State) : (finish o s).draw = s.draw := rfl

/-! ## setEsc -/

@[simp] theorem setEsc_isOpen (v : Bool) (s : State) : (setEsc v s).isOpen = s.isOpen := rfl
@[simp] theorem setEsc_fatal (v : Bool) (s : State) : (setEsc v s).fatal = s.fatal := rfl
@[simp] theorem setEsc_rx (v : Bool) (s : State) : (setEsc v s).rx = s.rx := rfl
@[simp] theorem setEsc_esc (v : Bool) (s : State) : (setEsc v s).esc = v := rfl
@[simp] theorem setEsc_buf (v : Bool) (s : State) : (setEsc v s).buf = s.buf := rfl
@[simp] theorem setEsc_ev (v : Bool) (s : State) : (setEsc v s).ev = s.ev := rfl
@[simp] theorem setEsc_opi (v : Bool) (s : State) : (setEsc v s).opi = s.opi := rfl
@[simp] theorem setEsc_prog (v : Bool) (s : State) : (setEsc v s).prog = s.prog := rfl
@[simp] theorem setEsc_cfg (v : Bool) (s : State) : (setEsc v s).cfg = s.cfg := rfl
@[simp] theorem setEsc_out (v : Bool) (s : State) : (setEsc v s).out = s.out := rfl
@[simp] theorem setEsc_reads (v : Bool) (s : State) : (setEsc v s).reads = s.reads := rfl
@[simp] theorem setEsc_writes (v : Bool) (s : State) : (setEsc v s).writes = s.writes := rfl
@[simp] theorem setEsc_pads (v : Bool) (s : State) : (setEsc v s).pads = s.pads := rfl
@[simp] theorem setEsc_draw (v : Bool) (s : State) : (setEsc v s).draw = s.draw := rfl

/-! ## setFatal -/

@[simp] theorem setFatal_isOpen (s : State) : (setFatal s).isOpen = s.isOpen := rfl
@[simp] theorem setFatal_fatal (s : State) : (setFatal s).fatal = true := rfl
@[simp] theorem setFatal_rx (s : State) : (setFatal s).rx = s.rx := rfl
@[simp] theorem setFatal_esc (s : State) : (setFatal s).esc = s.esc := rfl
@[simp] theorem setFatal_buf (s : State) : (setFatal s).buf = s.buf := rfl
@[simp] theorem setFatal_ev (s : State) : (setFatal s).ev = s.ev := rfl
@[simp] theorem setFatal_opi (s : State) : (setFatal s).opi = s.opi := rfl
@[simp] theorem setFatal_prog (s : State) : (setFatal s).prog = s.prog := rfl
@[simp] theorem setFatal_cfg (s : State) : (setFatal s).cfg = s.cfg := rfl
@[simp] theorem setFatal_out (s : State) : (setFatal s).out = s.out := rfl
@[simp] theorem setFatal_reads (s : State) : (setFatal s).reads = s.reads := rfl
@[simp] theorem setFatal_writes (s : State) : (setFatal s).writes = s.writes := rfl
@[simp] theorem setFatal_pads (s : State) : (setFatal s).pads = s.pads := rfl
@[simp] theorem setFatal_draw (s : State) : (setFatal s).draw = s.draw := rfl

/-! ## startFrame -/

@[simp] theorem startFrame_isOpen (s : State) : (startFrame s).isOpen = s.isOpen := rfl
@[simp] theorem startFrame_fatal (s : State) : (startFrame s).fatal = s.fatal := rfl
@[simp] theorem startFrame_rx (s : State) : (startFrame s).rx = .inFrame := rfl
@[simp] theorem startFrame_esc (s : State) : (startFrame s).esc = false := rfl
@[simp] theorem startFrame_buf (s : State) : (startFrame s).buf = [] := rfl
@[simp] theorem startFrame_ev (s : State) : (startFrame s).ev = s.ev := rfl
@[simp] theorem startFrame_opi (s : State) : (startFrame s).opi = s.opi := rfl
@[simp] theorem startFrame_prog (s : State) : (startFrame s).prog = s.prog := rfl
@[simp] theorem startFrame_cfg (s : State) : (startFrame s).cfg = s.cfg := rfl
@[simp] theorem startFrame_out (s : State) : (startFrame s).out = s.out := rfl
@[simp] theorem startFrame_reads (s : State) : (startFrame s).reads = s.reads := rfl
@[simp] theorem startFrame_writes (s : State) : (startFrame s).writes = s.writes := rfl
@[simp] theorem startFrame_pads (s : State) : (startFrame s).pads = s.pads := rfl
@[simp] theorem startFrame_draw (s : State) : (startFrame s).draw = s.draw := rfl

/-! ## toIdle -/

@[simp] theorem toIdle_isOpen (s : State) : (toIdle s).isOpen = s.isOpen := rfl
@[simp] theorem toIdle_fatal (s : State) : (toIdle s).fatal = s.fatal := rfl
@[simp] theorem toIdle_rx (s : State) : (toIdle s).rx = .idle := rfl
@[simp] theorem toIdle_esc (s : State) : (toIdle s).esc = false := rfl
@[simp] theorem toIdle_buf (s : State) : (toIdle s).buf = [] := rfl
@[simp] theorem toIdle_ev (s : State) : (toIdle s).ev = s.ev := rfl
@[simp] theorem toIdle_opi (s : State) : (toIdle s).opi = s.opi := rfl
@[simp] theorem toIdle_prog (s : State) : (toIdle s).prog = s.prog := rfl
@[simp] theorem toIdle_cfg (s : State) : (toIdle s).cfg = s.cfg := rfl
@[simp] theorem toIdle_out (s : State) : (toIdle s).out = s.out := rfl
@[simp] theorem toIdle_reads (s : State) : (toIdle s).reads = s.reads := rfl
@[simp] theorem toIdle_writes (s : State) : (toIdle s).writes = s.writes := rfl
@[simp] theorem toIdle_pads (s : State) : (toIdle s).pads = s.pads := rfl
@[simp] theorem toIdle_draw (s : State) : (toIdle s).draw = s.draw := rfl

/-! ## setOpen -/

@[simp] theorem setOpen_isOpen (v : Bool) (s : State) : (setOpen v s).isOpen = v := rfl
@[simp] theorem setOpen_fatal (v : Bool) (s : State) : (setOpen v s).fatal = s.fatal := rfl
@[simp] theorem setOpen_rx (v : Bool) (s : State) : (setOpen v s).rx = s.rx := rfl
@[simp] theorem setOpen_esc (v : Bool) (s : State) : (setOpen v s).esc = s.esc := rfl
@[simp] theorem setOpen_buf (v : Bool) (s : State) : (setOpen v s).buf = s.buf := rfl
@[simp] theorem setOpen_ev (v : Bool) (s : State) : (setOpen v s).ev = s.ev := rfl
@[simp] theorem setOpen_opi (v : Bool) (s : State) : (setOpen v s).opi = s.opi := rfl
@[simp] theorem setOpen_prog (v : Bool) (s : State) : (setOpen v s).prog = s.prog := rfl
@[simp] theorem setOpen_cfg (v : Bool) (s : State) : (setOpen v s).cfg = s.cfg := rfl
@[simp] theorem setOpen_out (v : Bool) (s : State) : (setOpen v s).out = s.out := rfl
@[simp] theorem setOpen_reads (v : Bool) (s : State) : (setOpen v s).reads = s.reads := rfl
@[simp] theorem setOpen_writes (v : Bool) (s : State) : (setOpen v s).writes = s.writes := rfl
@[simp] theorem setOpen_pads (v : Bool) (s : State) : (setOpen v s).pads = s.pads := rfl
@[simp] theorem setOpen_draw (v : Bool) (s : State) : (setOpen v s).draw = s.draw := rfl

/-! ## setBuf -/

@[simp] theorem setBuf_isOpen (bs : List Byte) (s : State) : (setBuf bs s).isOpen = s.isOpen := rfl
@[simp] theorem setBuf_fatal (bs : List Byte) (s : State) : (setBuf bs s).fatal = s.fatal := rfl
@[simp] theorem setBuf_rx (bs : List Byte) (s : State) : (setBuf bs s).rx = s.rx := rfl
@[simp] theorem setBuf_esc (bs : List Byte) (s : State) : (setBuf bs s).esc = s.esc := rfl
@[simp] theorem setBuf_buf (bs : List Byte) (s : State) : (setBuf bs s).buf = bs := rfl
@[simp] theorem setBuf_ev (bs : List Byte) (s : State) : (setBuf bs s).ev = s.ev := rfl
@[simp] theorem setBuf_opi (bs : List Byte) (s : State) : (setBuf bs s).opi = s.opi := rfl
@[simp] theorem setBuf_prog (bs : List Byte) (s : State) : (setBuf bs s).prog = s.prog := rfl
@[simp] theorem setBuf_cfg (bs : List Byte) (s : State) : (setBuf bs s).cfg = s.cfg := rfl
@[simp] theorem setBuf_out (bs : List Byte) (s : State) : (setBuf bs s).out = s.out := rfl
@[simp] theorem setBuf_reads (bs : List Byte) (s : State) : (setBuf bs s).reads = s.reads := rfl
@[simp] theorem setBuf_writes (bs : List Byte) (s : State) : (setBuf bs s).writes = s.writes := rfl
@[simp] theorem setBuf_pads (bs : List Byte) (s : State) : (setBuf bs s).pads = s.pads := rfl
@[simp] theorem setBuf_draw (bs : List Byte) (s : State) : (setBuf bs s).draw = s.draw := rfl

end Sys2Proof.Machine
end

