-- ==== Sys2Proof/Laws/Ops.lean ====
section
/-! SUPPORT. What each shared operation over the state can do, said once: the preconditions, the endings, BufRead and
BufAppend, the draws and the host's program. -/

namespace Sys2Proof.Machine

/-! ## Preconditions and endings -/

theorem whenRunning_of_running {s : State} (h : s.fatal = false) (k : Res) : whenRunning s k = k := by
  simp [whenRunning, h]

theorem whenRunning_of_fatal {s : State} (h : s.fatal = true) (k : Res) : whenRunning s k = .refused .halted := by
  simp [whenRunning, h]

theorem whenRunning_eq_next {s t : State} {k : Res} :
    whenRunning s k = .next t ↔ s.fatal = false ∧ k = .next t := by
  cases h : s.fatal <;> simp [whenRunning, h]

theorem whenOpen_of_open {s : State} (h : s.fatal = false) (ho : s.isOpen = true) (k : Res) : whenOpen s k = k := by
  simp [whenOpen, whenRunning, h, ho]

theorem whenOpen_of_fatal {s : State} (h : s.fatal = true) (k : Res) : whenOpen s k = .refused .halted :=
  whenRunning_of_fatal h _

theorem whenOpen_of_closed {s : State} (h : s.fatal = false) (ho : s.isOpen = false) (k : Res) :
    whenOpen s k = .refused .notOpen := by
  simp [whenOpen, whenRunning, h, ho]

theorem whenOpen_eq_next {s t : State} {k : Res} :
    whenOpen s k = .next t ↔ s.fatal = false ∧ s.isOpen = true ∧ k = .next t := by
  cases h : s.fatal <;> cases ho : s.isOpen <;> simp [whenOpen, whenRunning, h, ho]

theorem endOk_eq_next {r : OpResult} {s t : State} : endOk r s = .next t ↔ t = finish (.ok r) s := by
  simp [endOk, eq_comm]

theorem endErr_eq_next {e : CodecError} {s t : State} : endErr e s = .next t ↔ t = finish (.err e) s := by
  simp [endErr, eq_comm]

theorem raiseFatal_eq_next {d : Direction} {s t : State} :
    raiseFatal d s = .next t ↔
      t = finish (.fatal (.transportFailure d)) (setFatal (emit (.log (.transportFailure d)) s)) := by
  simp [raiseFatal, eq_comm]

/-! ## BufAppend and BufRead -/

theorem bufAppend_full {c : Config} {s : State} (h : s.buf.length = c.cap) (b : Byte) :
    bufAppend c b s = emit (.log (.malformedFrame .overflow)) (toIdle s) := by
  simp [bufAppend, h]

theorem bufAppend_room {c : Config} {s : State} (h : s.buf.length ≠ c.cap) (b : Byte) :
    bufAppend c b s = setBuf (s.buf ++ [b]) s := by
  simp [bufAppend, h]

@[simp] theorem bufAppend_isOpen (c : Config) (b : Byte) (s : State) : (bufAppend c b s).isOpen = s.isOpen := by
  unfold bufAppend; split <;> rfl

@[simp] theorem bufAppend_fatal (c : Config) (b : Byte) (s : State) : (bufAppend c b s).fatal = s.fatal := by
  unfold bufAppend; split <;> rfl

@[simp] theorem bufAppend_opi (c : Config) (b : Byte) (s : State) : (bufAppend c b s).opi = s.opi := by
  unfold bufAppend; split <;> rfl

@[simp] theorem bufAppend_prog (c : Config) (b : Byte) (s : State) : (bufAppend c b s).prog = s.prog := by
  unfold bufAppend; split <;> rfl

@[simp] theorem bufAppend_cfg (c : Config) (b : Byte) (s : State) : (bufAppend c b s).cfg = s.cfg := by
  unfold bufAppend; split <;> rfl

@[simp] theorem bufAppend_out (c : Config) (b : Byte) (s : State) : (bufAppend c b s).out = s.out := by
  unfold bufAppend; split <;> rfl

@[simp] theorem bufAppend_reads (c : Config) (b : Byte) (s : State) : (bufAppend c b s).reads = s.reads := by
  unfold bufAppend; split <;> rfl

@[simp] theorem bufAppend_writes (c : Config) (b : Byte) (s : State) : (bufAppend c b s).writes = s.writes := by
  unfold bufAppend; split <;> rfl

@[simp] theorem bufAppend_pads (c : Config) (b : Byte) (s : State) : (bufAppend c b s).pads = s.pads := by
  unfold bufAppend; split <;> rfl

@[simp] theorem bufAppend_draw (c : Config) (b : Byte) (s : State) : (bufAppend c b s).draw = s.draw := by
  unfold bufAppend; split <;> rfl

/-- Read after write: the byte appended is read at the address it was appended to. -/
theorem bufRead_bufAppend_same {c : Config} {s : State} (h : s.buf.length ≠ c.cap) (b : Byte) :
    bufRead s.buf.length (bufAppend c b s) = some b := by
  simp [bufRead, bufAppend_room h]

/-- An append leaves every other address as it was. -/
theorem bufRead_bufAppend_other {c : Config} {s : State} (h : s.buf.length ≠ c.cap) (b : Byte) {a : Nat}
    (ha : a ≠ s.buf.length) : bufRead a (bufAppend c b s) = bufRead a s := by
  rcases Nat.lt_or_gt_of_ne ha with h1 | h1
  · simp [bufRead, bufAppend_room h, List.getElem?_append_left h1]
  · rw [bufAppend_room h]
    simp only [bufRead, setBuf_buf]
    rw [List.getElem?_eq_none (by simp; omega), List.getElem?_eq_none (by omega)]

/-! ## Draws -/

/-- Every answer the transport may give to a read is its own image (R221). -/
theorem legalRead_data {c : Config} {bs : List Byte} (h1 : bs ≠ []) (h2 : bs.length ≤ c.maxRead) :
    legalRead c (.data bs) = .data bs := by
  cases bs with
  | nil => exact absurd rfl h1
  | cons b rest => simp [legalRead, List.take_of_length_le h2]

/-- Every answer the transport may give to a write of `n` bytes is its own image (R221). -/
theorem legalWrite_written {n k : Nat} (h : k ≤ n) : legalWrite n (.written k) = .written k := by
  simp [legalWrite, Nat.min_eq_left h]

/-- Every padding byte is its own image (R207). -/
theorem legalPad_of_range {c : Config} {b : Byte} (h1 : c.padLo ≤ b) (h2 : b ≤ c.padHi) : legalPad c b = b := by
  simp [legalPad, h1, h2]

/-- A read's draw changes the model's draw fields only. -/
theorem takeRead_cases (s : State) :
    (∃ rest, takeRead s = { s with reads := rest }) ∨ takeRead s = { s with draw := s.draw + 1 } := by
  unfold takeRead; split
  · exact .inl ⟨_, rfl⟩
  · exact .inr rfl

/-- A write's draw changes the model's draw fields only. -/
theorem takeWrite_cases (s : State) :
    (∃ rest, takeWrite s = { s with writes := rest }) ∨ takeWrite s = { s with draw := s.draw + 1 } := by
  unfold takeWrite; split
  · exact .inl ⟨_, rfl⟩
  · exact .inr rfl

/-- A padding byte's draw changes the model's draw fields only. -/
theorem takePad_cases (s : State) :
    (∃ rest, takePad s = { s with pads := rest }) ∨ takePad s = { s with draw := s.draw + 1 } := by
  unfold takePad; split
  · exact .inl ⟨_, rfl⟩
  · exact .inr rfl

/-- Padding draws change the model's draw fields only. -/
theorem takePads_cases (m : Nat) (s : State) :
    ∃ pads draw, takePads m s = { s with pads := pads, draw := draw } := by
  induction m generalizing s with
  | zero => exact ⟨s.pads, s.draw, rfl⟩
  | succ m ih =>
    obtain ⟨p, d, h⟩ := ih (takePad s)
    rcases takePad_cases s with ⟨rest, hr⟩ | hr <;> exact ⟨p, d, by rw [takePads, h, hr]⟩

theorem padBytes_length (c : Config) (m : Nat) (s : State) : (padBytes c m s).length = m := by
  induction m generalizing s with
  | zero => rfl
  | succ m ih => simp [padBytes, ih]

/-! ## The host's program -/

theorem placeAt_get (w : HostWord) (n : Nat) (l : List HostWord) : (placeAt w n l)[n]? = some w := by
  induction n generalizing l with
  | zero => cases l <;> rfl
  | succ n ih => cases l <;> simp [placeAt, ih]

end Sys2Proof.Machine
end

