-- ==== Sys2Proof/Laws/Memory.lean ====
section
/-! SUPPORT. The canonical form of the frame buffer, the hardware's one memory: it holds at reset and every operation
that writes the buffer keeps it (20_memory.md R43, 10_state.md R28). -/

namespace Sys2Proof.Machine

theorem memory_wf_nil (c : Config) : Memory.wf c [] = true := by simp [Memory.wf]

theorem memory_wf_reset (c : Config) : Memory.wf c State.reset.buf = true := memory_wf_nil c

theorem startFrame_wf (c : Config) (s : State) : Memory.wf c (startFrame s).buf = true := memory_wf_nil c

theorem toIdle_wf (c : Config) (s : State) : Memory.wf c (toIdle s).buf = true := memory_wf_nil c

theorem bufAppend_wf {c : Config} {s : State} (h : Memory.wf c s.buf = true) (b : Byte) :
    Memory.wf c (bufAppend c b s).buf = true := by
  by_cases hl : s.buf.length = c.cap
  · simpa [bufAppend_full hl] using memory_wf_nil c
  · simp only [Memory.wf, decide_eq_true_eq] at h ⊢
    simp [bufAppend_room hl]; omega

theorem endFrame_wf (c : Config) (s : State) : Memory.wf c (endFrame c s).buf = true := by
  unfold endFrame; split <;> exact memory_wf_nil c

theorem rxBody_wf {c : Config} {s : State} (h : Memory.wf c s.buf = true) (b : Byte) :
    Memory.wf c (rxBody c b s).buf = true := by
  unfold rxBody
  split
  · exact startFrame_wf c s
  · exact h
  · exact h
  · exact h
  · exact h
  · exact endFrame_wf c s
  · exact h
  · exact bufAppend_wf (s := setEsc false s) h _
  · exact bufAppend_wf (s := setEsc false s) h _
  · exact bufAppend_wf (s := setEsc false s) h _

theorem rxBytes_wf {c : Config} {s : State} (h : Memory.wf c s.buf = true) (bs : List Byte) :
    Memory.wf c (rxBytes c bs s).buf = true := by
  induction bs generalizing s with
  | nil => exact h
  | cons b bs ih => exact ih (rxBody_wf h b)

end Sys2Proof.Machine
end

