-- ==== Sys2Proof/Laws/Framer.lean ====
section
/-! SUPPORT. What the framer's operations can do, said once: the byte classes, each transition, what no received byte
changes, and that the output history only grows. -/

namespace Sys2Proof.Machine

/-! ## Byte classes -/

theorem classOf_fend (c : Config) : classOf c c.fend = .fend := by simp [classOf]

theorem classOf_fesc {c : Config} (h : c.distinct = true) : classOf c c.fesc = .fesc := by
  simp only [Config.distinct, Bool.and_eq_true, bne_iff_ne, ne_eq] at h
  simp [classOf, Ne.symm h.1.1.1.1.1]

theorem classOf_tfend {c : Config} (h : c.distinct = true) : classOf c c.tfend = .tfend := by
  simp only [Config.distinct, Bool.and_eq_true, bne_iff_ne, ne_eq] at h
  simp [classOf, Ne.symm h.1.1.1.1.2, Ne.symm h.1.1.2]

theorem classOf_tfesc {c : Config} (h : c.distinct = true) : classOf c c.tfesc = .tfesc := by
  simp only [Config.distinct, Bool.and_eq_true, bne_iff_ne, ne_eq] at h
  simp [classOf, Ne.symm h.1.1.1.2, Ne.symm h.1.2, Ne.symm h.2]

theorem classOf_eq_fend {c : Config} {b : Byte} : classOf c b = .fend ↔ b = c.fend := by
  constructor
  · intro h; unfold classOf at h; split at h
    · assumption
    · split at h
      · cases h
      · split at h
        · cases h
        · split at h <;> cases h
  · rintro rfl; exact classOf_fend c

theorem hw_distinct : hw.distinct = true := by decide

/-! ## Transitions -/

theorem rxBody_idle_fend {c : Config} {s : State} (h : s.rx = .idle) : rxBody c c.fend s = startFrame s := by
  simp [rxBody, h, classOf_fend]

theorem rxBody_idle_other {c : Config} {s : State} {b : Byte} (h : s.rx = .idle) (hb : b ≠ c.fend) :
    rxBody c b s = s := by
  have hc : classOf c b ≠ .fend := fun e => hb (classOf_eq_fend.mp e)
  unfold rxBody
  cases hk : classOf c b <;> simp_all

theorem rxBody_fend {c : Config} {s : State} (h : s.rx = .inFrame) : rxBody c c.fend s = endFrame c s := by
  simp [rxBody, h, classOf_fend]

theorem rxBody_fesc {c : Config} {s : State} (hd : c.distinct = true) (h : s.rx = .inFrame) :
    rxBody c c.fesc s = escapeByte s := by
  simp [rxBody, h, classOf_fesc hd]

theorem rxBody_tfend {c : Config} {s : State} (hd : c.distinct = true) (h : s.rx = .inFrame) :
    rxBody c c.tfend s = transposedFend c s := by
  simp [rxBody, h, classOf_tfend hd]

theorem rxBody_tfesc {c : Config} {s : State} (hd : c.distinct = true) (h : s.rx = .inFrame) :
    rxBody c c.tfesc s = transposedFesc c s := by
  simp [rxBody, h, classOf_tfesc hd]

theorem rxBody_data {c : Config} {s : State} {b : Byte} (h : s.rx = .inFrame) (hb : classOf c b = .other) :
    rxBody c b s = dataByte c b s := by
  simp [rxBody, h, hb]

/-- The transitions, said once: what a received byte can do. -/
theorem rxBody_cases (c : Config) (b : Byte) (s : State) :
    (s.rx = .idle ∧ classOf c b = .fend ∧ rxBody c b s = startFrame s) ∨
    (s.rx = .idle ∧ classOf c b ≠ .fend ∧ rxBody c b s = s) ∨
    (s.rx = .inFrame ∧ classOf c b = .fend ∧ rxBody c b s = endFrame c s) ∨
    (s.rx = .inFrame ∧ classOf c b = .fesc ∧ rxBody c b s = escapeByte s) ∨
    (s.rx = .inFrame ∧ ∃ v, rxBody c b s = bufAppend c v (setEsc false s)) := by
  unfold rxBody
  cases hr : s.rx <;> cases hc : classOf c b <;>
    simp [transposedFend, transposedFesc, dataByte] <;> exact ⟨_, rfl⟩

/-! ## What no received byte changes -/

theorem endFrame_cases (c : Config) (s : State) :
    (s.buf = [] ∧ endFrame c s = toIdle s) ∨ (s.buf ≠ [] ∧ endFrame c s = toIdle (deliver c s.buf s)) := by
  unfold endFrame
  by_cases h : s.buf = [] <;> simp [h]

/-- A received byte reads the framer's registers alone, writes them, and appends to the history, and nothing else: two
states with the same framer registers go to the same framer registers and get the same new events. -/
theorem rxBody_writes (c : Config) (b : Byte) (rx : RxState) (esc : Bool) (buf : List Byte) :
    ∃ rx' esc' buf' es, ∀ s : State, s.rx = rx → s.esc = esc → s.buf = buf →
      rxBody c b s = { s with rx := rx', esc := esc', buf := buf', ev := s.ev ++ es } := by
  have store : ∀ v : Byte, ∃ rx' esc' buf' es, ∀ s : State, s.rx = rx → s.buf = buf →
      bufAppend c v (setEsc false s) = { s with rx := rx', esc := esc', buf := buf', ev := s.ev ++ es } := by
    intro v
    by_cases hl : buf.length = c.cap
    · refine ⟨.idle, false, [], [.log (.malformedFrame .overflow)], fun s _ hb => ?_⟩
      rw [bufAppend_full (s := setEsc false s) (by simpa [hb] using hl)]
      simp [emit, toIdle, setEsc]
    · refine ⟨rx, false, buf ++ [v], [], fun s hr hb => ?_⟩
      rw [bufAppend_room (s := setEsc false s) (by simpa [hb] using hl)]
      simp [setBuf, setEsc, hr, hb]
  cases rx with
  | idle =>
    by_cases hf : classOf c b = .fend
    · exact ⟨.inFrame, false, [], [], fun s hr _ _ => by simp [rxBody, hr, hf, startFrame]⟩
    · refine ⟨.idle, esc, buf, [], fun s hr he hb => ?_⟩
      rw [rxBody_idle_other hr (fun e => hf (classOf_eq_fend.mpr e))]
      simp [← hr, ← he, ← hb]
  | inFrame =>
    cases hc : classOf c b with
    | fend =>
      by_cases he : buf = []
      · exact ⟨.idle, false, [], [], fun s hr _ hb => by simp [rxBody, hr, hc, endFrame, hb, he, toIdle]⟩
      · exact ⟨.idle, false, [], [.frame buf, reportEvent (interpret c buf)], fun s hr _ hb => by
          simp [rxBody, hr, hc, endFrame, hb, he, toIdle, deliver, emit]⟩
    | fesc =>
      exact ⟨.inFrame, true, buf, [], fun s hr _ hb => by
        cases s; simp_all [rxBody, escapeByte, setEsc]⟩
    | tfend =>
      obtain ⟨r, e, bf, es, h⟩ := store (if esc then c.fend else c.tfend)
      exact ⟨r, e, bf, es, fun s hr he hb => by rw [← h s hr hb]; simp [rxBody, hr, hc, transposedFend, he]⟩
    | tfesc =>
      obtain ⟨r, e, bf, es, h⟩ := store (if esc then c.fesc else c.tfesc)
      exact ⟨r, e, bf, es, fun s hr he hb => by rw [← h s hr hb]; simp [rxBody, hr, hc, transposedFesc, he]⟩
    | other =>
      obtain ⟨r, e, bf, es, h⟩ := store b
      exact ⟨r, e, bf, es, fun s hr _ hb => by rw [← h s hr hb]; simp [rxBody, hr, hc, dataByte]⟩

/-- So does a stream of bytes. -/
theorem rxBytes_writes (c : Config) (bs : List Byte) (rx : RxState) (esc : Bool) (buf : List Byte) :
    ∃ rx' esc' buf' es, ∀ s : State, s.rx = rx → s.esc = esc → s.buf = buf →
      rxBytes c bs s = { s with rx := rx', esc := esc', buf := buf', ev := s.ev ++ es } := by
  induction bs generalizing rx esc buf with
  | nil => exact ⟨rx, esc, buf, [], fun s hr he hb => by simp [rxBytes, ← hr, ← he, ← hb]⟩
  | cons b bs ih =>
    obtain ⟨r1, e1, b1, es1, h1⟩ := rxBody_writes c b rx esc buf
    obtain ⟨r2, e2, b2, es2, h2⟩ := ih r1 e1 b1
    refine ⟨r2, e2, b2, es1 ++ es2, fun s hr he hb => ?_⟩
    have hstep : rxBytes c (b :: bs) s = rxBytes c bs (rxBody c b s) := rfl
    rw [hstep, h1 s hr he hb, h2 _ rfl rfl rfl]
    simp

theorem rxBytes_nil (c : Config) (s : State) : rxBytes c [] s = s := rfl

theorem rxBytes_cons (c : Config) (b : Byte) (bs : List Byte) (s : State) :
    rxBytes c (b :: bs) s = rxBytes c bs (rxBody c b s) := rfl

theorem rxBytes_append (c : Config) (xs ys : List Byte) (s : State) :
    rxBytes c (xs ++ ys) s = rxBytes c ys (rxBytes c xs s) := by
  simp [rxBytes, List.foldl_append]

end Sys2Proof.Machine
end

