-- ==== Sys2Proof/Laws/Exec.lean ====
section
/-! SUPPORT. What an instruction can do when it gives a next state, said once, and what the two operations that use
the transport do with an answer. -/

namespace Sys2Proof.Machine

theorem endKind_eq_next {k : Kind} {s t : State} :
    endKind k s = .next t ↔ s.fatal = false ∧ t = finish (.ok (.kind k)) s := by
  simp [endKind, whenRunning_eq_next, endOk_eq_next]

theorem inState_eq_next {st : RxState} {s s' t : State} :
    inState st s s' = .next t ↔
      s.fatal = false ∧ s.isOpen = true ∧ s.rx = st ∧ t = finish (.ok .unit) s' := by
  unfold inState
  rw [whenOpen_eq_next]
  by_cases h : s.rx = st <;> simp [h, endOk_eq_next]

/-- A pure operation ends with some outcome, and changes nothing else but the model's padding draws. -/
theorem exec_pure_next {i : Instr} {s t : State} (hp : isPure i = true) (h : exec i s = .next t) :
    s.fatal = false ∧ ∃ o pads draw, t = finish o { s with pads := pads, draw := draw } ∧
      ((∀ dst src lit total, i ≠ .build dst src lit total) → pads = s.pads ∧ draw = s.draw) := by
  have same : ∀ {o : OpOutcome}, s.fatal = false → t = finish o s →
      s.fatal = false ∧ ∃ o pads draw, t = finish o { s with pads := pads, draw := draw } ∧
        ((∀ dst src lit total, i ≠ .build dst src lit total) → pads = s.pads ∧ draw = s.draw) :=
    fun h1 h2 => ⟨h1, _, s.pads, s.draw, h2, fun _ => ⟨rfl, rfl⟩⟩
  have kind : ∀ {k : Kind}, endKind k s = .next t → _ :=
    fun {k} hk => same (o := .ok (.kind k)) (endKind_eq_next.mp hk).1 (endKind_eq_next.mp hk).2
  cases i <;> first | exact kind h | skip
  case aenc call cmd last =>
    obtain ⟨h1, h2⟩ := whenRunning_eq_next.mp h
    cases he : encodeAddr s.cfg call cmd last <;> rw [he] at h2
    · exact same h1 (endErr_eq_next.mp h2)
    · exact same h1 (endOk_eq_next.mp h2)
  case adec a rep =>
    simp only [exec, execAdec] at h
    split at h
    · obtain ⟨h1, h2⟩ := whenRunning_eq_next.mp h
      exact same h1 (endOk_eq_next.mp h2)
    · cases h
  case finterp f =>
    obtain ⟨h1, h2⟩ := whenRunning_eq_next.mp h
    cases he : interpret s.cfg f <;> rw [he] at h2
    · exact same h1 (endOk_eq_next.mp h2)
    · exact same h1 (endOk_eq_next.mp h2)
    · exact same h1 (endErr_eq_next.mp h2)
  case build dst src lit total =>
    obtain ⟨h1, h2⟩ := whenRunning_eq_next.mp h
    cases he : encodeAddr s.cfg dst true false with
    | none => rw [he] at h2; exact same h1 (endErr_eq_next.mp h2)
    | some d =>
      rw [he] at h2
      cases hs : encodeAddr s.cfg src false true with
      | none => simp only [hs] at h2; exact same h1 (endErr_eq_next.mp h2)
      | some a =>
        simp only [hs] at h2
        obtain ⟨p, d, hpd⟩ := takePads_cases (padCount lit total) s
        rw [hpd] at h2
        exact ⟨h1, _, p, d, endOk_eq_next.mp h2, fun hn => absurd rfl (hn _ _ _ _)⟩
  all_goals simp [isPure] at hp

/-- A receive instruction is RXBYTE of some byte, or that byte's row in the framer's state. -/
theorem exec_receive_next {i : Instr} {s t : State} (hd : s.cfg.distinct = true) (hr : isReceive i = true) (h : exec i s = .next t) :
    s.fatal = false ∧ s.isOpen = true ∧
      ∃ b, (i = .rxByte b ∨ i = decodeRx s.cfg s.rx b) ∧ t = finish (.ok .unit) (rxBody s.cfg b s) := by
  cases i <;> first | (simp [isReceive] at hr; done) | skip
  case rxByte b =>
    obtain ⟨h1, h2, h3⟩ := whenOpen_eq_next.mp h
    exact ⟨h1, h2, b, .inl rfl, endOk_eq_next.mp h3⟩
  case rxIdleFend =>
    obtain ⟨h1, h2, h3, h4⟩ := inState_eq_next.mp h
    exact ⟨h1, h2, s.cfg.fend, .inr (by simp [decodeRx, h3, classOf_fend]), by rw [h4, rxBody_idle_fend h3]⟩
  case rxIdleOther b =>
    simp only [exec, execRxIdleOther] at h
    split at h
    · cases h
    · next hb =>
      obtain ⟨h1, h2, h3, h4⟩ := inState_eq_next.mp h
      have hne : b ≠ s.cfg.fend := fun e => hb (classOf_eq_fend.mpr e)
      refine ⟨h1, h2, b, .inr ?_, by rw [h4, rxBody_idle_other h3 hne]⟩
      cases hc : classOf s.cfg b <;> simp_all [decodeRx]
  case rxInFrameFend =>
    obtain ⟨h1, h2, h3, h4⟩ := inState_eq_next.mp h
    exact ⟨h1, h2, s.cfg.fend, .inr (by simp [decodeRx, h3, classOf_fend]), by rw [h4, rxBody_fend h3]⟩
  case rxInFrameFesc =>
    obtain ⟨h1, h2, h3, h4⟩ := inState_eq_next.mp h
    exact ⟨h1, h2, s.cfg.fesc, .inr (by simp [decodeRx, h3, classOf_fesc hd]),
      by rw [h4, rxBody_fesc hd h3]⟩
  case rxInFrameTfend =>
    obtain ⟨h1, h2, h3, h4⟩ := inState_eq_next.mp h
    exact ⟨h1, h2, s.cfg.tfend, .inr (by simp [decodeRx, h3, classOf_tfend hd]),
      by rw [h4, rxBody_tfend hd h3]⟩
  case rxInFrameTfesc =>
    obtain ⟨h1, h2, h3, h4⟩ := inState_eq_next.mp h
    exact ⟨h1, h2, s.cfg.tfesc, .inr (by simp [decodeRx, h3, classOf_tfesc hd]),
      by rw [h4, rxBody_tfesc hd h3]⟩
  case rxInFrameOther b =>
    simp only [exec, execRxInFrameOther] at h
    split at h
    · next hb =>
      obtain ⟨h1, h2, h3, h4⟩ := inState_eq_next.mp h
      exact ⟨h1, h2, b, .inr (by simp [decodeRx, h3, hb]), by rw [h4, rxBody_data h3 hb]⟩
    · cases h

/-- What an instruction can do when it gives a next state. -/
theorem exec_next_cases {i : Instr} {s t : State} (hd : s.cfg.distinct = true) (h : exec i s = .next t) :
    s.fatal = false ∧
    ((isPure i = true ∧ ∃ o pads draw, t = finish o { s with pads := pads, draw := draw }) ∨
     (i = .openSession ∧ t = finish (.ok .unit) (toIdle (setOpen true s))) ∨
     (i = .closeSession ∧ s.isOpen = true ∧ t = finish (.ok .unit) (toIdle (setOpen false s))) ∨
     (isReceive i = true ∧ s.isOpen = true ∧
       ∃ b, (i = .rxByte b ∨ i = decodeRx s.cfg s.rx b) ∧ t = finish (.ok .unit) (rxBody s.cfg b s)) ∨
     (i = .rxPoll ∧ s.isOpen = true ∧ pollAnswer s.cfg (readAnswer s.cfg s) (takeRead s) = .next t) ∨
     (∃ tag p, i = .txFrame tag p ∧ s.isOpen = true ∧
       txWrite (txEncode s.cfg tag p) (writeAnswer (txEncode s.cfg tag p).length s) (takeWrite s) = .next t)) := by
  by_cases hp : isPure i = true
  · obtain ⟨h1, o, p, d, h2, -⟩ := exec_pure_next hp h
    exact ⟨h1, .inl ⟨hp, o, p, d, h2⟩⟩
  by_cases hr : isReceive i = true
  · obtain ⟨h1, h2, h3⟩ := exec_receive_next hd hr h
    exact ⟨h1, .inr (.inr (.inr (.inl ⟨hr, h2, h3⟩)))⟩
  cases i <;> first | (simp [isPure] at hp; done) | (simp [isReceive] at hr; done) | skip
  case openSession =>
    obtain ⟨h1, h2⟩ := whenRunning_eq_next.mp h
    exact ⟨h1, .inr (.inl ⟨rfl, endOk_eq_next.mp h2⟩)⟩
  case closeSession =>
    obtain ⟨h1, h2, h3⟩ := whenOpen_eq_next.mp h
    exact ⟨h1, .inr (.inr (.inl ⟨rfl, h2, endOk_eq_next.mp h3⟩))⟩
  case rxPoll =>
    obtain ⟨h1, h2, h3⟩ := whenOpen_eq_next.mp h
    exact ⟨h1, .inr (.inr (.inr (.inr (.inl ⟨rfl, h2, h3⟩))))⟩
  case txFrame tag p =>
    obtain ⟨h1, h2, h3⟩ := whenOpen_eq_next.mp h
    exact ⟨h1, .inr (.inr (.inr (.inr (.inr ⟨tag, p, rfl, h2, h3⟩))))⟩
  case reservedOp => cases h

/-- What a read's answer can do. -/
theorem pollAnswer_next_cases {c : Config} {a : ReadAnswer} {s t : State} (h : pollAnswer c a s = .next t) :
    (a = .empty ∧ t = finish (.ok .unit) s) ∨
    (∃ bs, a = .data bs ∧ t = finish (.ok .unit) (rxBytes c bs s)) ∨
    (a = .readError ∧
      t = finish (.fatal (.transportFailure .read)) (setFatal (emit (.log (.transportFailure .read)) s))) := by
  cases a with
  | data bs => exact .inr (.inl ⟨bs, rfl, endOk_eq_next.mp h⟩)
  | empty => exact .inl ⟨rfl, endOk_eq_next.mp h⟩
  | readError => exact .inr (.inr ⟨rfl, raiseFatal_eq_next.mp h⟩)

/-- What a write's answer can do. -/
theorem txWrite_next_cases {bytes : List Byte} {w : WriteAnswer} {s t : State} (h : txWrite bytes w s = .next t) :
    (w = .written bytes.length ∧ t = finish (.ok .unit) (emit (.write bytes bytes.length) s)) ∨
    (∃ k, (w = .written k ∧ k ≠ bytes.length ∨ w = .writeError ∧ k = 0) ∧
      t = finish (.fatal (.transportFailure .write))
        (setFatal (emit (.log (.transportFailure .write)) (emit (.write bytes k) s)))) := by
  cases w with
  | written k =>
    simp only [txWrite] at h
    split at h
    · next hk => subst hk; exact .inl ⟨rfl, endOk_eq_next.mp h⟩
    · next hk => exact .inr ⟨k, .inl ⟨rfl, hk⟩, raiseFatal_eq_next.mp h⟩
  | writeError => exact .inr ⟨0, .inr ⟨rfl, rfl⟩, raiseFatal_eq_next.mp h⟩

end Sys2Proof.Machine
end

