-- ==== Sys2Proof/Laws/Interpreter.lean ====
section
/-! SUPPORT. What the operations of the Address Codec and the Frame Interpreter can answer, said once: lengths, ranges,
the extension bit, the repeater walk, and what the interpretation of a frame can be. -/

-- The theorems of this file are elaborated one after another: each on a thread of its own would take memory the
-- build of the package does not have.
set_option Elab.async false

namespace Sys2Proof.Machine

/-! ## Addresses -/

theorem isDigit_iff (d : Byte) : isDigit d = true ↔ 0x30 ≤ d ∧ d ≤ 0x39 := by revert d; decide

theorem value_append_digit (sfx : Text) (d : Byte) : value (sfx ++ [d]) = 10 * value sfx + (d.toNat - 0x30) := by
  simp [value]

/-- An encoded address has the bytes of its characters and one byte more (R130). -/
theorem encodeAddr_length {c : Config} {call : Text} {cmd last : Bool} {a : List Byte}
    (h : encodeAddr c call cmd last = some a) : a.length = c.callLen + 1 := by
  simp only [encodeAddr] at h
  split at h
  · cases h
  · cases h
    simp [padCall]
    omega

/-- More address fields follow exactly when the extension bit is clear (R140). -/
theorem decodeAddr_more (c : Config) (a : List Byte) (rep : Bool) : (decodeAddr c a rep).2 = !eBit c a := by
  have key : ∀ b : Byte, moreFollows b = !b.getLsbD 0 := by decide
  exact key _

/-! ## Padding -/

theorem legalPad_range {c : Config} (h : c.padLo ≤ c.padHi) (b : Byte) :
    c.padLo ≤ legalPad c b ∧ legalPad c b ≤ c.padHi := by
  unfold legalPad
  split
  · assumption
  · rw [BitVec.le_def] at h
    have hh := c.padHi.isLt
    have hm := Nat.mod_lt b.toNat (y := c.padHi.toNat - c.padLo.toNat + 1) (by omega)
    generalize b.toNat % (c.padHi.toNat - c.padLo.toNat + 1) = m at hm ⊢
    simp only [BitVec.le_def, BitVec.toNat_ofNat]
    omega

/-- Every padding byte is in the range of R207. -/
theorem padBytes_range {c : Config} (h : c.padLo ≤ c.padHi) (m : Nat) (s : State) :
    ∀ r ∈ padBytes c m s, c.padLo ≤ r ∧ r ≤ c.padHi := by
  induction m generalizing s with
  | zero => simp [padBytes]
  | succ m ih =>
    intro r hr
    rcases List.mem_cons.mp hr with rfl | hr
    · unfold padByte
      split <;> exact legalPad_range h _
    · exact ih _ r hr

/-! ## The repeater walk -/

/-- Addresses that all say more follow, and then fewer bytes than one address has: the walk runs past the end (R194). -/
theorem walkRepeaters_none {c : Config} {reps : List (List Byte)} {rest : List Byte}
    (h : ∀ a ∈ reps, a.length = c.addrLen ∧ eBit c a = false) (hr : rest.length < c.addrLen) (fuel : Nat) :
    walkRepeaters c fuel (reps.flatten ++ rest) = none := by
  induction reps generalizing fuel with
  | nil =>
    cases fuel with
    | zero => rfl
    | succ f => simp only [walkRepeaters]; rw [if_pos (by simpa using hr)]
  | cons a reps ih =>
    cases fuel with
    | zero => rfl
    | succ f =>
      have ha := h a (by simp)
      have e1 : ((a :: reps).flatten ++ rest).take c.addrLen = a := by simp [List.flatten_cons, List.append_assoc, ← ha.1]
      have e2 : ((a :: reps).flatten ++ rest).drop c.addrLen = reps.flatten ++ rest := by
        simp [List.flatten_cons, List.append_assoc, ← ha.1]
      simp only [walkRepeaters, e1, e2, decodeAddr_more, ha.2]
      rw [ih (fun b hb => h b (by simp [hb])) f]
      simp

/-! ## Interpretation -/

theorem carriesPayload_classify (b : Byte) : carriesPayload (classify b) = bearsPayload b := by revert b; decide

/-- A frame that is not empty is never malformed as `Empty`, and no frame is malformed as `Overflow`. -/
theorem interpret_malformed {c : Config} {f : List Byte} {r : Malformed} (h : interpret c f = .malformed r) :
    (r = .empty ∧ f = []) ∨ r = .addressOverrun ∨ r = .noControl ∨ r = .noPid := by
  cases f with
  | nil => cases h; exact .inl ⟨rfl, rfl⟩
  | cons tag p =>
    simp only [interpret, interpretAddresses] at h
    split at h
    · cases h
    · split at h
      · cases h; exact .inr (.inl rfl)
      · split at h
        · cases h; exact .inr (.inl rfl)
        · simp only [interpretControl] at h
          split at h
          · cases h; exact .inr (.inr (.inl rfl))
          · split at h
            · split at h
              · cases h; exact .inr (.inr (.inr rfl))
              · cases h
            · cases h

end Sys2Proof.Machine
end

