-- ==== Sys2Proof/Laws/PerInstr.lean ====
section
/-! SUPPORT. The family FitsTable, stated per instruction: the word the encoder gives a well-formed instruction fits
that instruction's row of opcode_table.json. The rows are the table's own masks and values; the encoder is written
from the field layouts of 30_encoding.md, so the two are checked against each other. -/

-- The theorems of this file are elaborated one after another: each on a thread of its own would take memory the
-- build of the package does not have.
set_option Elab.async false

namespace Sys2Proof.Laws.FitsTable

open Sys2Proof.Machine

/-- The encoded word of a well-formed instruction fits its row. -/
def Statement (i : Instr) : Prop :=
  wellFormed hw i = true → ∀ r, tableRow i = some r → r.fits (encode hw i) = true

/-- For a row without operand bits in its code. -/
theorem of_fits {i : Instr} {r : TableRow} (hr : tableRow i = some r) (h : r.fits (encode hw i) = true) :
    Statement i := by
  intro _ r' hr'
  rw [hr] at hr'
  cases hr'
  exact h

/-- A row matched by a phrase gives no mask. -/
theorem of_none {i : Instr} (hr : tableRow i = none) : Statement i := by
  intro _ r h
  rw [hr] at h
  cases h

theorem openSession : Statement .openSession := of_fits rfl (by decide)
theorem closeSession : Statement .closeSession := of_fits rfl (by decide)
theorem rxByte (b : Byte) : Statement (.rxByte b) := of_fits rfl (by simp [TableRow.fits, formatOf, codeOf, encode])
theorem rxPoll : Statement .rxPoll := of_fits rfl (by decide)
theorem txFrame (tag : Byte) (p : List Byte) : Statement (.txFrame tag p) :=
  of_fits rfl (by simp [TableRow.fits, formatOf, codeOf, encode])
theorem aenc (call : Text) (cmd last : Bool) : Statement (.aenc call cmd last) :=
  of_fits rfl (by simp [TableRow.fits, formatOf, codeOf, encode])
theorem adec (a : List Byte) (rep : Bool) : Statement (.adec a rep) :=
  of_fits rfl (by simp [TableRow.fits, formatOf, codeOf, encode])
theorem cclass (c : Byte) : Statement (.cclass c) := of_fits rfl (by simp [TableRow.fits, formatOf, codeOf, encode])
theorem finterp (f : List Byte) : Statement (.finterp f) :=
  of_fits rfl (by simp [TableRow.fits, formatOf, codeOf, encode])
theorem build (dst src : Text) (lit : List Byte) (total : Nat) : Statement (.build dst src lit total) :=
  of_fits rfl (by simp [TableRow.fits, formatOf, codeOf, encode])
theorem reservedOp (code : Byte) : Statement (.reservedOp code) := of_none rfl
theorem ctrlI (ns nr : BitVec 3) (pf : BitVec 1) : Statement (.ctrlI ns nr pf) :=
  of_fits rfl (by revert ns nr pf; decide)
theorem ctrlRR (nr : BitVec 3) (pf : BitVec 1) : Statement (.ctrlRR nr pf) := of_fits rfl (by revert nr pf; decide)
theorem ctrlRNR (nr : BitVec 3) (pf : BitVec 1) : Statement (.ctrlRNR nr pf) := of_fits rfl (by revert nr pf; decide)
theorem ctrlREJ (nr : BitVec 3) (pf : BitVec 1) : Statement (.ctrlREJ nr pf) := of_fits rfl (by revert nr pf; decide)
theorem ctrlSREJ (nr : BitVec 3) (pf : BitVec 1) : Statement (.ctrlSREJ nr pf) := of_fits rfl (by revert nr pf; decide)
theorem ctrlSUnknown (nr : BitVec 3) (pf : BitVec 1) (ss : BitVec 2) : Statement (.ctrlSUnknown nr pf ss) :=
  of_fits rfl (by revert nr pf ss; decide)
theorem ctrlSABME (pf : BitVec 1) : Statement (.ctrlSABME pf) := of_fits rfl (by revert pf; decide)
theorem ctrlSABM (pf : BitVec 1) : Statement (.ctrlSABM pf) := of_fits rfl (by revert pf; decide)
theorem ctrlDISC (pf : BitVec 1) : Statement (.ctrlDISC pf) := of_fits rfl (by revert pf; decide)
theorem ctrlDM (pf : BitVec 1) : Statement (.ctrlDM pf) := of_fits rfl (by revert pf; decide)
theorem ctrlUA (pf : BitVec 1) : Statement (.ctrlUA pf) := of_fits rfl (by revert pf; decide)
theorem ctrlFRMR (pf : BitVec 1) : Statement (.ctrlFRMR pf) := of_fits rfl (by revert pf; decide)
theorem ctrlUI (pf : BitVec 1) : Statement (.ctrlUI pf) := of_fits rfl (by revert pf; decide)
theorem ctrlXID (pf : BitVec 1) : Statement (.ctrlXID pf) := of_fits rfl (by revert pf; decide)
theorem ctrlTEST (pf : BitVec 1) : Statement (.ctrlTEST pf) := of_fits rfl (by revert pf; decide)
theorem ctrlUUnknown (mHi : BitVec 3) (pf : BitVec 1) (mLo : BitVec 2) : Statement (.ctrlUUnknown mHi pf mLo) :=
  of_fits rfl (by revert mHi pf mLo; decide)
theorem rxIdleFend : Statement .rxIdleFend := of_fits rfl (by decide)
theorem rxIdleOther (b : Byte) : Statement (.rxIdleOther b) := of_none rfl
theorem rxInFrameFend : Statement .rxInFrameFend := of_fits rfl (by decide)
theorem rxInFrameFesc : Statement .rxInFrameFesc := of_fits rfl (by decide)
theorem rxInFrameTfend : Statement .rxInFrameTfend := of_fits rfl (by decide)
theorem rxInFrameTfesc : Statement .rxInFrameTfesc := of_fits rfl (by decide)
theorem rxInFrameOther (b : Byte) : Statement (.rxInFrameOther b) := of_none rfl

end Sys2Proof.Laws.FitsTable
end

