-- ==== Sys2Proof/Laws/Run.lean ====
section
/-! SUPPORT. What a step and a run of the host's program can do, said once. -/

namespace Sys2Proof.Machine

/-- R7: the machine the host reads is the model with the parameters of this hardware. -/
theorem core_eq_codec : Sys2Proof.core = codec hw := rfl

theorem step_of_badConfig {s : State} (h : s.cfg.distinct = false) : step s = .refused .badConfig := by
  simp [step, h]

/-- What a step can do under distinct framing constants: nothing to run, an operation that does not decode, or one that does. -/
theorem step_cases {s : State} (hd : s.cfg.distinct = true) :
    (fetch s = none ∧ step s = .fault .noOperation) ∨
    (∃ w, fetch s = some w ∧ decode s.cfg (.hostop w) = .error .badOperand ∧ step s = .refused .badOperand) ∨
    (∃ w i, fetch s = some w ∧ decode s.cfg (.hostop w) = .ok i ∧ step s = exec i s) := by
  unfold step
  rw [if_pos hd]
  cases hf : fetch s with
  | none => exact .inl ⟨rfl, rfl⟩
  | some w =>
    cases hw : decode s.cfg (.hostop w) with
    | error e => cases e; exact .inr (.inl ⟨w, rfl, hw, by simp [hw]⟩)
    | ok i => exact .inr (.inr ⟨w, i, rfl, hw, by simp [hw]⟩)

/-- A step that gives a next state ran an instruction, under distinct framing constants. -/
theorem step_eq_next {s t : State} (h : step s = .next t) : s.cfg.distinct = true ∧ ∃ i, exec i s = .next t := by
  cases hd : s.cfg.distinct
  · rw [step_of_badConfig hd] at h
    cases h
  refine ⟨rfl, ?_⟩
  rcases step_cases hd with ⟨_, h'⟩ | ⟨_, _, _, h'⟩ | ⟨_, i, _, _, h'⟩ <;> rw [h'] at h
  · cases h
  · cases h
  · exact ⟨i, h⟩

@[simp] theorem runFor_zero (s : State) : runFor 0 s = .ended s := rfl

theorem runFor_of_fatal {s : State} (h : s.fatal = true) (n : Nat) : runFor n s = .ended s := by
  cases n <;> simp [runFor, h]

theorem runFor_of_next {s t : State} (hf : s.fatal = false) (h : step s = .next t) (n : Nat) :
    runFor (n + 1) s = runFor n t := by
  simp [runFor, hf, h]

theorem runFor_of_refused {s : State} {r : Refusal} (hf : s.fatal = false) (h : step s = .refused r) (n : Nat) :
    runFor (n + 1) s = .stopped s r := by
  simp [runFor, hf, h]

@[simp] theorem exitStatus_ended (s : State) :
    exitStatus (.ended s) = some (if s.fatal then .failure else .success) := rfl

@[simp] theorem exitStatus_stopped (s : State) (r : Refusal) : exitStatus (.stopped s r) = none := rfl

end Sys2Proof.Machine
end

