-- ==== Sys2Proof/Tests/Slice0.lean ====
section
/-! SUPPORT. Tests. Expected results are those of 95_test_vectors.md (W, X, P numbers) or of the rule named. The second
half shows, for each obligation with hypotheses, values that meet them together, at the boundary of each clause. -/

-- One theorem after another: each on a thread of its own would take memory the build of the package does not have.
set_option Elab.async false

namespace Sys2Proof.Tests

open Sys2Proof Sys2Proof.Machine

/-! ## Helpers -/

/-- The next state, if there is one. -/
def after : Res → Option State
  | .next s => some s
  | .fault _ => none
  | .refused _ => none

/-- Why the machine refused, if it did. -/
def refusal : Res → Option Refusal
  | .next _ => none
  | .fault _ => none
  | .refused r => some r

/-- Why the machine stopped with a fault, if it did. -/
def faultOf : Res → Option Fault
  | .next _ => none
  | .fault r => some r
  | .refused _ => none

/-- What the operation handed the host. -/
def outOf (r : Res) : Option OpOutcome := (after r).bind State.out

/-- The events after the step. -/
def evOf (r : Res) : Option (List Event) := (after r).map State.ev

/-- The framer's registers after the step. -/
def framerOf (r : Res) : Option (RxState × Bool × List Byte) := (after r).map fun s => (s.rx, s.esc, s.buf)

/-- One step with the one operation `w`. -/
def step1 (w : HostWord) (s : State) : Res := step { s with prog := [w] }

/-- A session, no frame. -/
def openIdle : State := { State.reset with isOpen := true }

/-- A session, in a frame. -/
def inFrame (esc : Bool) (buf : List Byte) : State := { openIdle with rx := .inFrame, esc := esc, buf := buf }

/-- After a TransportFailure. -/
def halted : State := { openIdle with fatal := true }

/-- The parameters of this hardware with the MAX_READ of 95_test_vectors.md. -/
def vectorConfig : Config := { hw with maxRead := 64 }

/-- One RXPOLL whose read returns `bs`, in a session whose MAX_READ is that of 95_test_vectors.md. -/
def poll (bs : List Byte) : Res := step1 ⟨0x11, []⟩ { openIdle with cfg := vectorConfig, reads := [.data bs] }

/-- Other parameters than this hardware's: every constant differs, and addresses have three characters. -/
def otherConfig : Config :=
  { cap := 4, fend := 0x7E, fesc := 0x7D, tfend := 0x5E, tfesc := 0x5D, dataTag := 0x10, ctrlUi := 0x13, pidNone := 0xCF,
    padLo := 0x30, padHi := 0x39, maxRead := 3, callLen := 3, addrLen := 4 }

/-- Parameters that violate R8: the delimiter is the escape byte. -/
def badConfig : Config := { hw with fesc := 0xC0 }

/-- A session, no frame, with the other parameters. -/
def otherIdle : State := { openIdle with cfg := otherConfig }

/-- 95_test_vectors.md `D`: AENC "B0BBB", 1, 0. -/
def dD : List Byte := [0x84, 0x60, 0x84, 0x84, 0x84, 0x40, 0xE0]
/-- `S`: AENC "A0AAA", 0, 1. -/
def dS : List Byte := [0x82, 0x60, 0x82, 0x82, 0x82, 0x40, 0x61]
/-- `Dr`: AENC "B0BBB", 0, 0. -/
def dDr : List Byte := [0x84, 0x60, 0x84, 0x84, 0x84, 0x40, 0x60]
/-- `Sr`: AENC "A0AAA", 1, 1. -/
def dSr : List Byte := [0x82, 0x60, 0x82, 0x82, 0x82, 0x40, 0xE1]
/-- `Sm`: AENC "A0AAA", 0, 0. -/
def dSm : List Byte := [0x82, 0x60, 0x82, 0x82, 0x82, 0x40, 0x60]

/-- What a word decodes to. -/
def decoded (w : TableWord) : Option Instr :=
  match decode hw w with
  | .ok i => some i
  | .error _ => none

/-! ## Decoding: words written out from R68 to R71, R80, R81 and R101 -/

theorem test_decode_session :
    decoded (.hostop ⟨0x01, []⟩) = some .openSession ∧
    decoded (.hostop ⟨0x02, []⟩) = some .closeSession ∧
    decoded (.hostop ⟨0x11, []⟩) = some .rxPoll := by decide

theorem test_decode_framer :
    decoded (.hostop ⟨0x10, [.byte 0xC0]⟩) = some (.rxByte 0xC0) ∧
    decoded (.hostop ⟨0x20, [.byte 0x00, .bytes [0x41, 0xC0]]⟩) = some (.txFrame 0x00 [0x41, 0xC0]) := by decide

theorem test_decode_codecs :
    decoded (.hostop ⟨0x30, [.text [0x41], .bool true, .bool false]⟩) = some (.aenc [0x41] true false) ∧
    decoded (.hostop ⟨0x31, [.bytes dS, .bool true]⟩) = some (.adec dS true) ∧
    decoded (.hostop ⟨0x40, [.byte 0x41]⟩) = some (.cclass 0x41) ∧
    decoded (.hostop ⟨0x41, [.bytes [0x01]]⟩) = some (.finterp [0x01]) ∧
    decoded (.hostop ⟨0x50, [.text [0x42], .text [0x41], .bytes [0x74], .nat 25]⟩) =
      some (.build [0x42] [0x41] [0x74] 25) := by decide

theorem test_decode_reserved :
    decoded (.hostop ⟨0x00, []⟩) = some (.reservedOp 0x00) ∧
    decoded (.hostop ⟨0x12, [.nat 5]⟩) = some (.reservedOp 0x12) ∧
    decoded (.hostop ⟨0xFF, []⟩) = some (.reservedOp 0xFF) := by decide

theorem test_decode_bad_operand :
    decoded (.hostop ⟨0x31, [.bytes [1, 2, 3, 4, 5, 6], .bool false]⟩) = none ∧
    decoded (.hostop ⟨0x10, []⟩) = none ∧
    decoded (.hostop ⟨0x10, [.nat 5]⟩) = none ∧
    decoded (.hostop ⟨0x01, [.byte 0]⟩) = none := by decide

/-- R68: `rrrpsss0` with N(R) 5, P/F 1, N(S) 3, and `rrrpSS01`. -/
theorem test_decode_ctrl_is :
    decoded (.ctrl8 0b10110110) = some (.ctrlI 3 5 1) ∧
    decoded (.ctrl8 0b01000001) = some (.ctrlRR 2 0) ∧
    decoded (.ctrl8 0b10110101) = some (.ctrlRNR 5 1) ∧
    decoded (.ctrl8 0b00001001) = some (.ctrlREJ 0 0) ∧
    decoded (.ctrl8 0b11111101) = some (.ctrlSREJ 7 1) := by decide

/-- R71's last column, and the selectors with P/F 0. -/
theorem test_decode_ctrl_u :
    decoded (.ctrl8 0x7F) = some (.ctrlSABME 1) ∧
    decoded (.ctrl8 0x3F) = some (.ctrlSABM 1) ∧
    decoded (.ctrl8 0x53) = some (.ctrlDISC 1) ∧
    decoded (.ctrl8 0x1F) = some (.ctrlDM 1) ∧
    decoded (.ctrl8 0x73) = some (.ctrlUA 1) ∧
    decoded (.ctrl8 0x97) = some (.ctrlFRMR 1) ∧
    decoded (.ctrl8 0x03) = some (.ctrlUI 0) ∧
    decoded (.ctrl8 0xBF) = some (.ctrlXID 1) ∧
    decoded (.ctrl8 0xE3) = some (.ctrlTEST 0) ∧
    decoded (.ctrl8 0b11111011) = some (.ctrlUUnknown 7 1 2) := by decide

theorem test_decode_rows :
    decoded (.rxClass .idle 0xC0) = some .rxIdleFend ∧
    decoded (.rxClass .idle 0xDB) = some (.rxIdleOther 0xDB) ∧
    decoded (.rxClass .inFrame 0xC0) = some .rxInFrameFend ∧
    decoded (.rxClass .inFrame 0xDB) = some .rxInFrameFesc ∧
    decoded (.rxClass .inFrame 0xDC) = some .rxInFrameTfend ∧
    decoded (.rxClass .inFrame 0xDD) = some .rxInFrameTfesc ∧
    decoded (.rxClass .inFrame 0x41) = some (.rxInFrameOther 0x41) := by decide

/-- S_UNKNOWN: R167 says that no byte is of this type, so each of the four selectors decodes to a named one. -/
theorem test_decode_s_unknown : decoded (.ctrl8 0x0D) = some (.ctrlSREJ 0 0) := by decide

/-- A bare table word is an operation code (log entry 9). -/
theorem test_table_word :
    decodeTableWord 8 0x01 = some .openSession ∧ decodeTableWord 8 0x31 = some (.adec [0, 0, 0, 0, 0, 0, 0] false) ∧
    decodeTableWord 8 0x7F = some (.reservedOp 0x7F) ∧ decodeTableWord 8 0x100 = none := by decide

theorem test_fetch_word :
    refusal (step (State.reset.withFetchWord 8 0x10)) = some .notOpen ∧
    (after (step (State.reset.withFetchWord 8 0x01))).map State.isOpen = some true := by decide

/-! ## WellFormed refuses an ill-formed term of each check -/

theorem test_wf_adec_length : wellFormed hw (.adec [1, 2, 3, 4, 5, 6] false) = false := by decide
theorem test_wf_reserved_code : wellFormed hw (.reservedOp 0x50) = false := by decide
theorem test_wf_s_unknown : wellFormed hw (.ctrlSUnknown 0 0 2) = false := by decide
theorem test_wf_u_unknown : wellFormed hw (.ctrlUUnknown 0 0 0) = false := by decide
theorem test_wf_idle_other : wellFormed hw (.rxIdleOther 0xC0) = false := by decide
theorem test_wf_inframe_other : wellFormed hw (.rxInFrameOther 0xDD) = false := by decide

/-! ## The framer -/

/-- X1. -/
theorem test_x1 : evOf (poll [0x55, 0xDB, 0xC0, 0x00, 0x41, 0xC0]) =
    some [.frame [0x00, 0x41], .log (.malformedFrame .addressOverrun)] := by decide

/-- X2, W9. -/
theorem test_x2 : evOf (poll [0xC0, 0x41, 0xDB, 0xDD, 0x42, 0xC0]) =
    some [.frame [0x41, 0xDB, 0x42], .nonData 0x41] := by decide

/-- X9. -/
theorem test_x9 : framerOf (poll [0xC0, 0x00, 0xDB]) = some (.inFrame, true, [0x00]) := by decide

/-- X10. -/
theorem test_x10 : framerOf (poll [0xC0, 0xC0, 0x41, 0xC0]) = some (.inFrame, false, []) := by decide

/-- R221: MAX_READ is at least 1, so a read of one byte is received whatever MAX_READ is. -/
theorem test_poll_one :
    framerOf (pollAnswer hw (legalRead hw (.data [0xC0])) openIdle) = some (.inFrame, false, []) := by
  rw [legalRead_data (bs := [0xC0]) (c := hw) (by decide) (by simp [hw])]; decide

/-! ## The parameters are an argument (R7) -/

/-- R8, R273: parameters with equal framing constants are refused, and nothing runs. -/
theorem test_bad_config : refusal (step1 ⟨0x01, []⟩ (State.resetWith badConfig)) = some .badConfig := by decide

/-- R110 with another FEND, FESC, TFEND and TFESC. -/
theorem test_other_tx :
    evOf (step1 ⟨0x20, [.byte 0x10, .bytes [0x7E, 0xC0, 0x7D]]⟩ { otherIdle with writes := [.written 8] }) =
    some [.write [0x7E, 0x10, 0x7D, 0x5E, 0xC0, 0x7D, 0x5D, 0x7E] 8] := by decide

/-- R221 with MAX_READ 3: the fourth byte is not read; and R101 with another FEND. -/
theorem test_other_poll :
    framerOf (step1 ⟨0x11, []⟩ { otherIdle with reads := [.data [0x7E, 0xC0, 0xDB, 0x7E]] }) =
      some (.inFrame, false, [0xC0, 0xDB]) := by decide

/-- R43 with CAP 4. -/
theorem test_other_cap :
    evOf (step1 ⟨0x10, [.byte 0xC0]⟩ { otherIdle with rx := .inFrame, buf := [1, 2, 3, 4] }) =
      some [.log (.malformedFrame .overflow)] := by decide

/-- R206 and R132 with three characters in an address, another CTRL_UI and PID_NONE, and another padding range. -/
theorem test_other_build :
    outOf (step1 ⟨0x50, [.text (ascii "B"), .text (ascii "ABCD"), .bytes [0x74], .nat 2]⟩
        { otherIdle with pads := [0x35] }) =
      some (.ok (.bytes ([0x84, 0x40, 0x40, 0xE0] ++ [0x82, 0x84, 0x86, 0x61] ++ [0x13, 0xCF, 0x74, 0x35]))) := by decide

/-- R221: a read has at least one byte. -/
theorem test_read_bound : legalRead hw (.data []) = .empty := by decide

/-- R102. -/
theorem test_rx_idle_fend :
    framerOf (step1 ⟨0x10, [.byte 0xC0]⟩ openIdle) = some (.inFrame, false, []) ∧
    framerOf (exec .rxIdleFend openIdle) = some (.inFrame, false, []) := by decide

/-- R103, X15. -/
theorem test_rx_idle_other :
    framerOf (step1 ⟨0x10, [.byte 0xDB]⟩ openIdle) = some (.idle, false, []) ∧
    framerOf (exec (.rxIdleOther 0xDB) openIdle) = some (.idle, false, []) := by decide

/-- R104. -/
theorem test_rx_inframe_fend :
    evOf (step1 ⟨0x10, [.byte 0xC0]⟩ (inFrame true [0x41])) = some [.frame [0x41], .nonData 0x41] ∧
    framerOf (exec .rxInFrameFend (inFrame true [0x41])) = some (.idle, false, []) := by decide

/-- R105. -/
theorem test_rx_inframe_fesc : framerOf (exec .rxInFrameFesc (inFrame true [0x41])) = some (.inFrame, true, [0x41]) := by
  decide

/-- R106. -/
theorem test_rx_inframe_tfend :
    framerOf (exec .rxInFrameTfend (inFrame true [0x41])) = some (.inFrame, false, [0x41, 0xC0]) ∧
    framerOf (exec .rxInFrameTfend (inFrame false [])) = some (.inFrame, false, [0xDC]) := by decide

/-- R107. -/
theorem test_rx_inframe_tfesc :
    framerOf (exec .rxInFrameTfesc (inFrame true [0x41])) = some (.inFrame, false, [0x41, 0xDB]) ∧
    framerOf (exec .rxInFrameTfesc (inFrame false [])) = some (.inFrame, false, [0xDD]) := by decide

/-- R108. -/
theorem test_rx_inframe_other : framerOf (exec (.rxInFrameOther 0x41) (inFrame true [])) = some (.inFrame, false, [0x41]) := by
  decide

/-- X13: byte 2001 of a frame. -/
theorem test_rx_overflow :
    evOf (step1 ⟨0x10, [.byte 0x41]⟩ (inFrame false (List.replicate 2000 0x41))) =
      some [.log (.malformedFrame .overflow)] ∧
    framerOf (step1 ⟨0x10, [.byte 0x41]⟩ (inFrame false (List.replicate 2000 0x41))) = some (.idle, false, []) := by
  decide +kernel

/-- X12: byte 2000 of a frame. -/
theorem test_rx_cap :
    (after (step1 ⟨0x10, [.byte 0x41]⟩ (inFrame false (List.replicate 1999 0x41)))).map (fun s => s.buf.length) =
      some 2000 := by
  decide +kernel

/-- X121, and R248: `Halted` before `NotOpen`. -/
theorem test_rx_refused :
    refusal (step1 ⟨0x10, [.byte 0xC0]⟩ State.reset) = some .notOpen ∧
    refusal (step1 ⟨0x10, [.byte 0xC0]⟩ { State.reset with fatal := true }) = some .halted := by decide

/-- X20. -/
theorem test_tx_ok : evOf (step1 ⟨0x20, [.byte 0x00, .bytes [0x41, 0xC0, 0xDB, 0x42]]⟩ { openIdle with writes := [.written 9] }) =
    some [.write [0xC0, 0x00, 0x41, 0xDB, 0xDC, 0xDB, 0xDD, 0x42, 0xC0] 9] := by decide

/-- X24. -/
theorem test_tx_partial :
    evOf (step1 ⟨0x20, [.byte 0x00, .bytes [0x41, 0xC0]]⟩ { openIdle with writes := [.written 3] }) =
      some [.write [0xC0, 0x00, 0x41, 0xDB, 0xDC, 0xC0] 3, .log (.transportFailure .write)] ∧
    outOf (step1 ⟨0x20, [.byte 0x00, .bytes [0x41, 0xC0]]⟩ { openIdle with writes := [.written 3] }) =
      some (.fatal (.transportFailure .write)) := by decide

/-! ## Session -/

/-- X120, X123. -/
theorem test_open :
    (after (step1 ⟨0x01, []⟩ State.reset)).map (fun s => (s.isOpen, s.rx, s.opi)) = some (true, .idle, 1) ∧
    framerOf (step1 ⟨0x01, []⟩ (inFrame false [0x41])) = some (.idle, false, []) := by decide

/-- X122. -/
theorem test_close :
    framerOf (step1 ⟨0x02, []⟩ (inFrame false [0x41])) = some (.idle, false, []) ∧
    evOf (step1 ⟨0x02, []⟩ (inFrame false [0x41])) = some [] := by decide

/-- X124. -/
theorem test_poll_empty : framerOf (step1 ⟨0x11, []⟩ { inFrame true [0x41] with reads := [.empty] }) =
    some (.inFrame, true, [0x41]) := by decide

/-- X125. -/
theorem test_poll_error :
    (after (step1 ⟨0x11, []⟩ { inFrame false [0x00] with reads := [.readError] })).map
      (fun s => (s.fatal, s.rx, s.buf, s.ev)) = some (true, .inFrame, [0x00], [.log (.transportFailure .read)]) := by decide

/-- X126, X127. -/
theorem test_refused :
    refusal (step1 ⟨0x40, [.byte 0x41]⟩ halted) = some .halted ∧
    refusal (step1 ⟨0x00, []⟩ halted) = some .illegalOperation := by decide

/-- Past the end of the program (log entry 4). -/
theorem test_no_operation : faultOf (step State.reset) = some .noOperation := by decide

/-- R259, and P3: a run that a partial write ends has failure status, with the operation after it not issued. -/
theorem test_exit_status :
    exitStatus (runHost { openIdle with writes := [.written 2], prog := [⟨0x20, [.byte 0, .bytes []]⟩, ⟨0x11, []⟩] }) =
      some .failure ∧
    exitStatus (runHost { State.reset with prog := [⟨0x02, []⟩] }) = none ∧
    exitStatus (runHost { State.reset with prog := [⟨0x01, []⟩] }) = some .success := by decide

/-! ## Addresses -/

/-- X33. -/
theorem test_aenc_ssid : outOf (step1 ⟨0x30, [.text (ascii "N0CALL-15"), .bool true, .bool true]⟩ State.reset) =
    some (.ok (.bytes [0x9C, 0x60, 0x86, 0x82, 0x98, 0x98, 0xFF])) := by decide

/-- X43. -/
theorem test_aenc_reject : outOf (step1 ⟨0x30, [.text (ascii "AB-1-2"), .bool false, .bool false]⟩ State.reset) =
    some (.err .invalidAddress) := by decide

/-- X52. -/
theorem test_adec_repeater : outOf (step1 ⟨0x31, [.bytes [0x9C, 0x60, 0x86, 0x82, 0x98, 0x98, 0xFF], .bool true]⟩ State.reset) =
    some (.ok (.address (ascii "N0CALL-15*") false)) := by decide

/-- X55. -/
theorem test_adec_low_bits : outOf (step1 ⟨0x31, [.bytes [0x83, 0x41, 0x85, 0x41, 0x41, 0x41, 0x7E], .bool true]⟩ State.reset) =
    some (.ok (.address (ascii "AB-15") true)) := by decide

/-! ## Control bytes -/

/-- X61, X63. -/
theorem test_cclass :
    outOf (step1 ⟨0x40, [.byte 0x52]⟩ State.reset) = some (.ok (.kind (.i 1 2 1))) ∧
    outOf (step1 ⟨0x40, [.byte 0x41]⟩ State.reset) = some (.ok (.kind (.s .rr 2 0))) := by decide

/-- X78. -/
theorem test_cclass_unknown : outOf (step1 ⟨0x40, [.byte 0xFF]⟩ State.reset) = some (.ok (.kind (.u .unknown 1))) := by
  decide

/-- X62 and X64 to X66, as the table's rows. -/
theorem test_rows_is :
    outOf (exec (.ctrlI 7 7 1) State.reset) = some (.ok (.kind (.i 7 7 1))) ∧
    outOf (exec (.ctrlRR 2 0) State.reset) = some (.ok (.kind (.s .rr 2 0))) ∧
    outOf (exec (.ctrlRNR 5 1) State.reset) = some (.ok (.kind (.s .rnr 5 1))) ∧
    outOf (exec (.ctrlREJ 0 0) State.reset) = some (.ok (.kind (.s .rej 0 0))) ∧
    outOf (exec (.ctrlSREJ 7 1) State.reset) = some (.ok (.kind (.s .srej 7 1))) ∧
    outOf (exec (.ctrlSUnknown 7 1 0) State.reset) = some (.ok (.kind (.s .unknown 7 1))) := by decide

/-- X67 to X78, as the table's rows. -/
theorem test_rows_u :
    outOf (exec (.ctrlSABME 1) State.reset) = some (.ok (.kind (.u .sabme 1))) ∧
    outOf (exec (.ctrlSABM 1) State.reset) = some (.ok (.kind (.u .sabm 1))) ∧
    outOf (exec (.ctrlDISC 1) State.reset) = some (.ok (.kind (.u .disc 1))) ∧
    outOf (exec (.ctrlDM 0) State.reset) = some (.ok (.kind (.u .dm 0))) ∧
    outOf (exec (.ctrlUA 1) State.reset) = some (.ok (.kind (.u .ua 1))) ∧
    outOf (exec (.ctrlFRMR 0) State.reset) = some (.ok (.kind (.u .frmr 0))) ∧
    outOf (exec (.ctrlUI 1) State.reset) = some (.ok (.kind (.u .ui 1))) ∧
    outOf (exec (.ctrlXID 1) State.reset) = some (.ok (.kind (.u .xid 1))) ∧
    outOf (exec (.ctrlTEST 0) State.reset) = some (.ok (.kind (.u .test 0))) ∧
    outOf (exec (.ctrlUUnknown 0 0 1) State.reset) = some (.ok (.kind (.u .unknown 0))) := by decide

/-! ## Frames -/

/-- X96. -/
theorem test_finterp_repeaters :
    outOf (step1 ⟨0x41, [.bytes (0x00 :: dD ++ dSm ++ [0xA4, 0xA0, 0xA8, 0x62, 0x40, 0x40, 0xE0] ++
      [0xA4, 0xA0, 0xA8, 0x64, 0x40, 0x40, 0x67] ++ [0x03, 0xF0, 0x6F, 0x6B])]⟩ State.reset) =
    some (.ok (.trace ⟨ascii "A0AAA>B0BBB,RPT1*,RPT2-3", .command, .u .ui 0, .none, some [0x6F, 0x6B]⟩)) := by decide

/-- X89. -/
theorem test_finterp_response :
    outOf (step1 ⟨0x41, [.bytes (0x00 :: dDr ++ dSr ++ [0x52, 0xF0, 0x78])]⟩ State.reset) =
    some (.ok (.trace ⟨ascii "A0AAA>B0BBB", .response, .i 1 2 1, .f, some [0x78]⟩)) := by decide

/-- X110. -/
theorem test_build :
    outOf (step1 ⟨0x50, [.text (ascii "B0BBB"), .text (ascii "A0AAA"), .bytes (ascii "test1 "), .nat 8]⟩
      { State.reset with pads := [0x41, 0x42] }) =
    some (.ok (.bytes (dD ++ dS ++ [0x03, 0xF0, 0x74, 0x65, 0x73, 0x74, 0x31, 0x20, 0x41, 0x42]))) := by decide

/-- X113. -/
theorem test_build_reject :
    outOf (step1 ⟨0x50, [.text (ascii "B0BBB-16"), .text (ascii "A0AAA"), .bytes (ascii "x"), .nat 1]⟩ State.reset) =
    some (.err .invalidAddress) := by decide

/-- R201's example, X88's text. -/
theorem test_trace_text :
    traceText ⟨ascii "A0AAA>B0BBB", .command, .i 1 2 1, .p, some [0x78]⟩ = ascii "A0AAA>B0BBB Command I S1 R2 P x" := by
  decide

/-- R82's syntax, as in program P3. -/
theorem test_asm_text : asmLine none ⟨0x20, [.byte 0x00, .bytes [0x41, 0xC0]]⟩ (some (writeText (.written 3))) =
    ascii "TXFRAME 0x00, [41 C0] ; write -> 3" := by decide

/-! ## Witnesses: the hypotheses of each obligation can be met together -/

theorem witness_StepRunsDecodedOperation :
    State.reset.cfg.distinct = true ∧
    ({ State.reset with prog := [⟨0x01, []⟩] } : State).prog[0]? = some ⟨0x01, []⟩ ∧
    decode State.reset.cfg (.hostop ⟨0x01, []⟩) = .ok .openSession ∧ otherIdle.cfg.distinct = true :=
  ⟨by decide, rfl, rfl, by decide⟩

theorem witness_StepStopsPastProgram :
    State.reset.cfg.distinct = true ∧ State.reset.prog[State.reset.opi]? = none := by decide

theorem witness_RefusedWords :
    (∀ c ∈ [(0x00 : Byte), 0x03, 0x0F, 0x12, 0x1F, 0x21, 0x2F, 0x32, 0x3F, 0x42, 0x4F, 0x51, 0xFF], ReservedCode c) ∧
    (∀ c ∈ [(0x01 : Byte), 0x02, 0x10, 0x11, 0x20, 0x30, 0x31, 0x40, 0x41, 0x50], ¬ ReservedCode c) ∧
    State.reset.cfg.distinct = true ∧
    ({ State.reset with prog := [⟨0x10, []⟩] } : State).prog[0]? = some ⟨0x10, []⟩ ∧
    rightShape hw ⟨0x31, [.bytes [1, 2, 3, 4, 5, 6], .bool false]⟩ = false ∧
    rightShape hw ⟨0x10, []⟩ = false ∧
    rightShape hw ⟨0x31, [.bytes dS, .bool false]⟩ = true := by decide

theorem witness_DecodeOfEncode :
    hw.distinct = true ∧ otherConfig.distinct = true ∧ wellFormed otherConfig (.rxIdleOther 0xC0) = true ∧
    wellFormed hw (.adec dS true) = true ∧ wellFormed hw (.reservedOp 0xFF) = true ∧
    wellFormed hw (.ctrlI 7 7 1) = true ∧ wellFormed hw (.ctrlUUnknown 7 1 2) = true ∧
    wellFormed hw (.rxIdleOther 0xDB) = true ∧ wellFormed hw (.rxInFrameOther 0xFF) = true := by decide

theorem witness_EncodeOfDecode :
    decode hw (.hostop ⟨0x50, [.text [], .text [], .bytes [], .nat 0]⟩) = .ok (.build [] [] [] 0) ∧
    isReservedOp (.build [] [] [] 0) = false := ⟨rfl, rfl⟩

theorem witness_ByteClasses :
    badConfig.distinct = false ∧ (State.resetWith badConfig).cfg.distinct = false ∧ hw.distinct = true ∧
    otherConfig.distinct = true := by decide

theorem witness_SessionRequirement :
    (wellFormed hw .rxPoll = true ∧ isReservedOp .rxPoll = false ∧ halted.fatal = true) ∧
    (State.reset.fatal = false ∧ needsSession .rxPoll = true ∧ State.reset.isOpen = false) ∧
    (wellFormed hw (.ctrlRR 0 0) = true ∧ isReservedOp (.ctrlRR 0 0) = false ∧
      needsSession (.ctrlRR 0 0) = false) := by decide

theorem witness_OpenSession : halted.fatal = true ∧ State.reset.fatal = false := by decide

theorem witness_CloseSession :
    halted.fatal = true ∧ (State.reset.fatal = false ∧ State.reset.isOpen = false) ∧
    (inFrame true [0x41]).fatal = false ∧ (inFrame true [0x41]).isOpen = true := by decide

theorem witness_RxDelimiter :
    (openIdle.fatal = false ∧ openIdle.isOpen = true ∧ openIdle.rx = .idle) ∧
    ((inFrame false []).fatal = false ∧ (inFrame false []).isOpen = true ∧ (inFrame false []).rx = .inFrame ∧
      (inFrame false []).buf = []) ∧
    ((inFrame true [0x41]).rx = .inFrame ∧ (inFrame true [0x41]).buf ≠ []) := by decide

theorem witness_RxIdleDiscards :
    openIdle.fatal = false ∧ openIdle.isOpen = true ∧ openIdle.rx = .idle ∧
    (0xC1 : Byte) ≠ hw.fend ∧ (0xBF : Byte) ≠ hw.fend ∧ hw.fesc ≠ hw.fend := by decide

theorem witness_RxEscape :
    (inFrame false []).cfg.distinct = true ∧ (inFrame false []).fatal = false ∧ (inFrame false []).isOpen = true ∧
    (inFrame false []).rx = .inFrame ∧ (inFrame true [0x41]).rx = .inFrame := by decide

theorem witness_RxStores :
    (inFrame true []).cfg.distinct = true ∧ (inFrame true []).fatal = false ∧ (inFrame true []).isOpen = true ∧
    (inFrame true []).rx = .inFrame ∧ ∀ b ∈ [(0x00 : Byte), 0xBF, 0xC1, 0xDA, 0xDE, 0xFF],
      b ≠ hw.fend ∧ b ≠ hw.fesc ∧ b ≠ hw.tfend ∧ b ≠ hw.tfesc := by decide

theorem witness_BoundedAppend :
    (inFrame false (List.replicate 2000 0x41)).buf.length = hw.cap ∧
    (inFrame false (List.replicate 1999 0x41)).buf.length ≠ hw.cap ∧
    (inFrame false (List.replicate 2001 0x41)).buf.length ≠ hw.cap := by
  decide +kernel

theorem witness_DeliverReports :
    interpret hw (0x00 :: dD ++ dS ++ [0x53]) = .trace ⟨ascii "A0AAA>B0BBB", .command, .u .disc 1, .none, none⟩ ∧
    interpret hw [0x01] = .nonData 0x01 ∧
    interpret hw [] = .malformed .empty := by decide

theorem witness_FramerRowsStopOutsideTheirState :
    ((inFrame false []).fatal = false ∧ (inFrame false []).isOpen = true ∧ (inFrame false []).rx = .inFrame ∧
      hw.fesc ≠ hw.fend) ∧
    (openIdle.fatal = false ∧ openIdle.isOpen = true ∧ openIdle.rx = .idle ∧ classOf hw 0x41 = .other) ∧
    classOf hw 0xC0 ≠ .other := by decide

theorem witness_RxPollAnswers :
    openIdle.fatal = false ∧ openIdle.isOpen = true ∧
    ({ openIdle with reads := [.empty] } : State).reads = .empty :: [] ∧
    ({ openIdle with reads := [.data [0xC0], .empty] } : State).reads = .data [0xC0] :: [.empty] ∧
    (1 ≤ [(0xC0 : Byte)].length ∧ [(0xC0 : Byte)].length ≤ hw.maxRead) ∧
    hw.maxRead < (List.replicate (hw.maxRead + 1) (0xC0 : Byte)).length ∧
    ({ openIdle with reads := [.data []] } : State).reads = .data [] :: [] ∧
    ({ openIdle with reads := [.readError] } : State).reads = .readError :: [] :=
  ⟨rfl, rfl, rfl, rfl, ⟨by decide, by simp [hw]⟩, by simp, rfl, rfl⟩

theorem witness_FreeAnswersAreLegal :
    openIdle.fatal = false ∧ openIdle.isOpen = true ∧ openIdle.reads = [] ∧ openIdle.writes = [] := by decide

theorem witness_AnswersAreBounded :
    (({ openIdle with reads := [.data [0xC0]] } : State).reads.head? = some (.data [0xC0]) ∧
      ReadAllowed hw (.data [0xC0])) ∧
    (({ openIdle with writes := [.written 3] } : State).writes.head? = some (.written 3) ∧
      WriteAllowed 3 (.written 3) ∧ WriteAllowed 0 (.written 0) ∧ ¬ WriteAllowed 2 (.written 3)) :=
  ⟨⟨rfl, by decide, by simp [hw]⟩, rfl, by simp, by simp, by simp⟩

theorem witness_StreamSplit :
    (inFrame true [0x41]).fatal = false ∧ (inFrame true [0x41]).isOpen = true ∧
    (∀ a ∈ [ReadAnswer.data [0xDC], .data [0xC0]] ++ [.data [0xDC], .empty, .data [0xC0]], ReadAllowed hw a) ∧
    readBytes [.data [0xDC], .data [0xC0]] = some [0xDC, 0xC0] ∧
    readBytes [.data [0xDC], .empty, .data [0xC0]] = some [0xDC, 0xC0] :=
  ⟨rfl, rfl, by simp [ReadAllowed, hw], rfl, rfl⟩

theorem witness_RxStreamIsRxPoll :
    openIdle.fatal = false ∧ openIdle.isOpen = true ∧
    1 ≤ [(0xC0 : Byte)].length ∧ [(0xC0 : Byte)].length ≤ hw.maxRead := ⟨rfl, rfl, by decide, by simp [hw]⟩

theorem witness_InvertedPhaseLosesFrames :
    hw.distinct = true ∧
    (inFrame true []).rx = .inFrame ∧ (inFrame true []).buf = [] ∧ (0x00 : Byte) ≠ hw.fend ∧ hw.fesc ≠ hw.fend := by
  decide

theorem witness_OverflowInvertsPhase :
    (inFrame false (List.replicate 2000 0x41)).rx = .inFrame ∧
    (inFrame false (List.replicate 2000 0x41)).buf.length = hw.cap ∧
    classOf hw 0x41 ≠ .fend ∧ classOf hw 0x41 ≠ .fesc ∧ classOf hw hw.tfend ≠ .fend ∧ classOf hw hw.tfend ≠ .fesc ∧
    hw.fend ∉ ([] : List Byte) ∧ hw.fend ∉ [(0x41 : Byte), 0xDB] := by
  decide +kernel

theorem witness_UnescapedTagIsLost :
    hw.distinct = true ∧
    openIdle.rx = .idle ∧ [(0x41 : Byte), 0xDC] ≠ [] ∧ [(0x41 : Byte), 0xDC].length ≤ hw.cap ∧
    (List.replicate 2000 (0x41 : Byte)).length ≤ hw.cap ∧
    [(0x41 : Byte), 0xDC].head? ≠ some hw.tfend ∧ [(0x41 : Byte), 0xDC].head? ≠ some hw.tfesc := by
  decide +kernel

theorem witness_TxFrameWrites :
    openIdle.fatal = false ∧ openIdle.isOpen = true ∧
    ({ openIdle with writes := [.written 3] } : State).writes = .written 3 :: [] ∧
    [0xC0, 0x00, 0xC0] = [hw.fend, 0x00] ++
      ([] : List Byte).flatMap (fun b => if b = hw.fend then [hw.fesc, hw.tfend]
        else if b = hw.fesc then [hw.fesc, hw.tfesc] else [b]) ++ [hw.fend] ∧
    WriteAnswer.written 3 = .written [(0xC0 : Byte), 0x00, 0xC0].length ∧
    2 < [(0xC0 : Byte), 0x00, 0xC0].length ∧ 0 < [(0xC0 : Byte), 0x00, 0xC0].length ∧
    ({ openIdle with writes := [.writeError] } : State).writes = .writeError :: [] := by decide

theorem witness_EscapeCorrect :
    hw.distinct = true ∧
    ((txEncode hw 0x00 [0xDB]).drop 2).dropLast = [0xDB, 0xDD] ∧ [(0xDB : Byte), 0xDD][0]? = some hw.fesc := by decide

theorem witness_FramingRoundTrip :
    openIdle.cfg.distinct = true ∧
    openIdle.fatal = false ∧ openIdle.isOpen = true ∧ openIdle.rx = .idle ∧
    (0x00 : Byte) ≠ hw.fend ∧ (0x00 : Byte) ≠ hw.fesc ∧ hw.tfend ≠ hw.fend ∧ hw.tfend ≠ hw.fesc ∧
    (List.replicate 1999 (0xC0 : Byte)).length + 1 ≤ hw.cap ∧
    hw.cap < (List.replicate 2000 (0xC0 : Byte)).length + 1 := by
  decide +kernel

theorem witness_DecimalText : (dec 0).head? = some 0x30 := by decide

theorem witness_AencEncodes :
    State.reset.fatal = false ∧ 0x2D ∉ ascii "B0BBB" ∧
    (ascii "AB-15" = ascii "AB" ++ 0x2D :: ascii "15" ∧ 0x2D ∉ ascii "AB" ∧ GoodSuffix (ascii "15")) ∧
    (ascii "AB-16" = ascii "AB" ++ 0x2D :: ascii "16" ∧ ¬ GoodSuffix (ascii "16")) ∧
    GoodSuffix (ascii "0") ∧ ¬ GoodSuffix [] ∧ ¬ GoodSuffix (ascii "1-2") := by decide

theorem witness_AdecDecodes :
    State.reset.fatal = false ∧ AddressShape State.reset.cfg ∧
    [(1 : Byte), 2, 3, 4, 5, 6].length = State.reset.cfg.callLen ∧
    [(1 : Byte), 2, 3, 4, 5, 6].length ≠ State.reset.cfg.addrLen ∧ AddressShape otherConfig := by decide

theorem witness_AddressRoundTrip :
    State.reset.fatal = false ∧ AddressShape State.reset.cfg ∧ PlainCall hw (ascii "A") ∧
    PlainCall hw (ascii "N0CALL") ∧ 0 ≤ 15 ∧ 15 ≤ 15 ∧
    ascii "N0CALL-15" = ascii "N0CALL" ++ 0x2D :: dec 15 ∧
    (ascii "05" ≠ [] ∧ (∀ d ∈ ascii "05", 0x30 ≤ d ∧ d ≤ 0x39) ∧ value (ascii "05") = 5 ∧
      ascii "A-05" = ascii "A" ++ 0x2D :: ascii "05") := by decide

theorem witness_ClassifyIS :
    State.reset.fatal = false ∧ (0x00 : Byte) &&& 0x01 = 0x00 ∧ (0xFE : Byte) &&& 0x01 = 0x00 ∧
    ((0x0D : Byte), SType.srej) ∈ [((0x01 : Byte), SType.rr), (0x05, SType.rnr), (0x09, SType.rej), (0x0D, SType.srej)] ∧
    (0xFD : Byte) &&& 0x0F = 0x0D ∧
    (Instr.ctrlRR 7 1, SType.rr) ∈ [(Instr.ctrlRR 7 1, SType.rr), (Instr.ctrlRNR 7 1, SType.rnr),
      (Instr.ctrlREJ 7 1, SType.rej), (Instr.ctrlSREJ 7 1, SType.srej)] := by decide

theorem witness_SUnknownRow : State.reset.fatal = false := by decide

theorem witness_ClassifyU :
    State.reset.fatal = false ∧
    ((0xE3 : Byte), UType.test) ∈ [((0x6F : Byte), UType.sabme), (0x2F, UType.sabm), (0x43, UType.disc),
      (0x0F, UType.dm), (0x63, UType.ua), (0x87, UType.frmr), (0x03, UType.ui), (0xAF, UType.xid), (0xE3, UType.test)] ∧
    (0xF3 : Byte) &&& 0xEF = 0xE3 ∧
    ((0xFF : Byte) &&& 0x03 = 0x03 ∧
      (0xFF : Byte) &&& 0xEF ∉ [(0x6F : Byte), 0x2F, 0x43, 0x0F, 0x63, 0x87, 0x03, 0xAF, 0xE3]) ∧
    (Instr.ctrlTEST 1, UType.test) ∈ [(Instr.ctrlUI 1, UType.ui), (Instr.ctrlTEST 1, UType.test)] ∧
    wellFormed hw (.ctrlUUnknown 7 1 2) = true ∧ wellFormed hw (.ctrlUUnknown 0 0 1) = true := by decide

theorem witness_FinterpEarlyEnds :
    State.reset.fatal = false ∧ (0x01 : Byte) ≠ hw.dataTag ∧ (0xFF : Byte) ≠ hw.dataTag ∧
    (List.replicate 13 (0x41 : Byte)).length < 2 * hw.addrLen ∧ ([] : List Byte).length < 2 * hw.addrLen := by decide

theorem witness_FinterpOverrun :
    State.reset.fatal = false ∧ dD.length = hw.addrLen ∧
    (∀ a ∈ dSm :: [[0xA4, 0xA0, 0xA8, 0x62, 0x40, 0x40, 0xE0]], a.length = hw.addrLen ∧ eBit hw a = false) ∧
    [(0xA4 : Byte), 0xA0, 0xA8, 0x62, 0x40, 0x40].length < hw.addrLen := by decide

theorem witness_FinterpInterprets :
    State.reset.fatal = false ∧ dD.length = hw.addrLen ∧ EndedChain hw [dS] ∧
    EndedChain hw (dSm :: [[0xA4, 0xA0, 0xA8, 0x62, 0x40, 0x40, 0xE0], [0xA4, 0xA0, 0xA8, 0x64, 0x40, 0x40, 0x67]]) ∧
    bearsPayload 0x03 = true ∧ bearsPayload 0x13 = true ∧ bearsPayload 0x00 = true ∧ bearsPayload 0xFE = true ∧
    bearsPayload 0x41 = false ∧ bearsPayload 0xEF = false := by decide

theorem witness_FinterpIsPure :
    State.reset.cfg = (inFrame true [0x41]).cfg ∧
    (∃ t, exec (.finterp [0x01]) State.reset = .next t) ∧ ∃ t, exec (.finterp [0x01]) (inFrame true [0x41]) = .next t :=
  ⟨rfl, ⟨_, rfl⟩, ⟨_, rfl⟩⟩

theorem witness_BuildComposes :
    State.reset.fatal = false ∧ hw.padLo ≤ hw.padHi ∧ encodeAddr hw (ascii "B0BBB") true false = some dD ∧
    encodeAddr hw (ascii "A0AAA") false true = some dS ∧
    ((∀ r ∈ ({ State.reset with pads := [0x20, 0x7D] } : State).pads.take (2 - ([] : List Byte).length),
        hw.padLo ≤ r ∧ r ≤ hw.padHi) ∧
      2 - ([] : List Byte).length ≤ ({ State.reset with pads := [0x20, 0x7D] } : State).pads.length) := by decide

theorem witness_BuildRejects :
    State.reset.fatal = false ∧ encodeAddr hw (ascii "B0BBB-16") true false = none ∧
    encodeAddr hw (ascii "A0AAA-") false true = none := by decide

theorem witness_BuildInterpretLaw :
    AddressShape State.reset.cfg ∧ State.reset.cfg.ctrlUi = 0x03 ∧
    (after (exec (.build (ascii "B0BBB") (ascii "A0AAA") (ascii "hello") 3) State.reset)).bind State.out =
      some (.ok (.bytes (dD ++ dS ++ [0x03, 0xF0, 0x68, 0x65, 0x6C, 0x6C, 0x6F]))) := by decide

theorem witness_SendTestExpands :
    outOf (exec (.build (ascii "B0BBB") (ascii "A0AAA") [] 0) openIdle) =
      some (.ok (.bytes (dD ++ dS ++ [0x03, 0xF0]))) ∧
    outOf (exec (.build (ascii "B0BBB-16") (ascii "A0AAA") [] 0) openIdle) = some (.err .invalidAddress) := by decide

theorem witness_OpiAdvances : ∃ t, exec .openSession State.reset = .next t := ⟨_, rfl⟩

theorem witness_HistoryGrows : ∃ t, exec .rxInFrameFend (inFrame true [0x41]) = .next t := ⟨_, rfl⟩

theorem witness_HistoryIsNeverRead :
    (∃ t, exec .rxInFrameFend (inFrame true [0x41]) = .next t) ∧ exec .rxPoll State.reset = .refused .notOpen :=
  ⟨⟨_, rfl⟩, rfl⟩

theorem witness_OnlyTransportFailureIsFatal :
    (after (exec .rxPoll { openIdle with reads := [.readError] })).map State.fatal = some true ∧
    (after (exec (.txFrame 0x00 []) { openIdle with writes := [.written 2] })).map State.fatal = some true := by decide

theorem witness_PureFrame :
    isPure (.cclass 0x41) = true ∧ (∃ t, exec (.cclass 0x41) (inFrame true [0x41]) = .next t) ∧
    isPure (.build [] [] [] 2) = true ∧ ∃ t, exec (.build [] [] [] 2) State.reset = .next t :=
  ⟨rfl, ⟨_, rfl⟩, rfl, ⟨_, rfl⟩⟩

theorem witness_TxFrameFrame :
    ∃ t, exec (.txFrame 0x00 []) { inFrame true [0x41] with writes := [.written 3] } = .next t := ⟨_, rfl⟩

theorem witness_ReceiveFrame :
    (inFrame true [0x41]).cfg.distinct = true ∧ openIdle.cfg.distinct = true ∧
    (isReceive .rxInFrameFesc = true ∧ ∃ t, exec .rxInFrameFesc (inFrame true [0x41]) = .next t) ∧
    (isReceive (.rxByte 0xC0) = true ∧ ∃ t, exec (.rxByte 0xC0) (inFrame true [0x41]) = .next t) ∧
    (isReceive (.rxByte 0x41) = true ∧ (0x41 : Byte) ≠ hw.fend ∧ (0x41 : Byte) ≠ hw.fesc ∧
      (∃ t, exec (.rxByte 0x41) openIdle = .next t) ∧
      (inFrame true [0x41]).buf.length ≠ hw.cap ∧ ∃ t, exec (.rxByte 0x41) (inFrame true [0x41]) = .next t) :=
  ⟨by decide, by decide, ⟨rfl, ⟨_, rfl⟩⟩, ⟨rfl, ⟨_, rfl⟩⟩, ⟨rfl, by decide, by decide, ⟨_, rfl⟩, by decide, ⟨_, rfl⟩⟩⟩

theorem witness_SessionFrame :
    (∃ t, exec .openSession State.reset = .next t) ∧ (∃ t, exec .closeSession (inFrame true [0x41]) = .next t) ∧
    (∃ t, exec .rxPoll { inFrame true [0x41] with reads := [.empty] } = .next t) ∧
    (∃ t, exec .rxPoll { inFrame true [0x41] with reads := [.readError] } = .next t) ∧
    ({ inFrame true [0x41] with reads := [.empty] } : State).reads.head? = some .empty ∧
    ({ inFrame true [0x41] with reads := [.readError] } : State).reads.head? = some .readError :=
  ⟨⟨_, rfl⟩, ⟨_, rfl⟩, ⟨_, rfl⟩, ⟨_, rfl⟩, rfl, rfl⟩

theorem witness_InvariantsHold :
    Inv { inFrame true [0x41] with prog := [⟨0x10, [.byte 0xDC]⟩] } ∧
    (after (step { inFrame true [0x41] with prog := [⟨0x10, [.byte 0xDC]⟩] })).map State.buf = some [0x41, 0xC0] := by
  decide

theorem witness_OneLinePerFrame :
    reported hw [.write [0xC0, 0x01, 0xC0] 3, .frame [0x01], .nonData 0x01] = true ∧
    ∃ t, step { inFrame true [0x41] with ev := [.frame [0x01], .nonData 0x01], prog := [⟨0x10, [.byte 0xC0]⟩] } =
      .next t := ⟨by decide, ⟨_, rfl⟩⟩

theorem witness_ExitStatusIsFatal :
    runHost State.reset = .ended State.reset ∧ State.reset.fatal = false ∧
    State.reset.prog.length ≤ State.reset.opi ∧
    (runHost halted = .ended halted ∧ halted.fatal = true) ∧
    (runHost { State.reset with prog := [⟨0x10, [.byte 0xC0]⟩] } =
        .stopped { State.reset with prog := [⟨0x10, [.byte 0xC0]⟩] } .notOpen ∧
      ({ State.reset with prog := [⟨0x10, [.byte 0xC0]⟩] } : State).opi <
        ({ State.reset with prog := [⟨0x10, [.byte 0xC0]⟩] } : State).prog.length ∧
      step { State.reset with prog := [⟨0x10, [.byte 0xC0]⟩] } = .refused .notOpen) ∧
    ∃ t, step { State.reset with prog := [⟨0x01, []⟩] } = .next t :=
  ⟨rfl, rfl, by decide, ⟨rfl, rfl⟩, ⟨rfl, by decide, rfl⟩, ⟨_, rfl⟩⟩

end Sys2Proof.Tests
end

section
/-! PROOF. Decimal text (00_scope.md R11, R17): the fuel of `decFuel` is hidden behind one equation and one induction
for `dec`, and the facts about `dec` follow from these two. -/

namespace Sys2Proof.Machine

/-! ## One digit -/

theorem digit_toNat {d : Nat} (hd : d < 10) : (digit d).toNat = 0x30 + d := by
  simp only [digit, BitVec.toNat_ofNat]
  omega

theorem isDigit_digit {d : Nat} (hd : d < 10) : isDigit (digit d) = true := by
  simp only [isDigit, digit_toNat hd, Bool.and_eq_true, decide_eq_true_eq]
  omega

theorem digit_eq_zero_char {d : Nat} (hd : d < 10) (h : digit d = 0x30) : d = 0 := by
  have hv : 0x30 + d = 0x30 := (digit_toNat hd).symm.trans (congrArg BitVec.toNat h)
  omega

/-! ## The recursion of `dec` -/

/-- Any fuel from `n` up gives the same digits. -/
theorem decFuel_eq_dec {fuel n : Nat} (h : n ≤ fuel) : decFuel fuel n = dec n := by
  induction n using Nat.strong_induction_on generalizing fuel with
  | _ n ih =>
    cases n with
    | zero => cases fuel <;> rfl
    | succ m =>
      obtain ⟨f, rfl⟩ : ∃ f, fuel = f + 1 := ⟨fuel - 1, by omega⟩
      simp only [dec, decFuel]
      split
      · rfl
      · rw [ih ((m + 1) / 10) (by omega) (fuel := f) (by omega), ih ((m + 1) / 10) (by omega) (fuel := m) (by omega)]

theorem dec_of_lt {n : Nat} (h : n < 10) : dec n = [digit n] := by
  cases n with
  | zero => rfl
  | succ m => simp only [dec, decFuel, if_pos h]

theorem dec_of_ge {n : Nat} (h : 10 ≤ n) : dec n = dec (n / 10) ++ [digit (n % 10)] := by
  obtain ⟨m, rfl⟩ : ∃ m, n = m + 1 := ⟨n - 1, by omega⟩
  rw [dec, decFuel, if_neg (by omega), decFuel_eq_dec (by omega)]

/-- Induction along `dec`: the numbers of one digit, then one digit more. -/
theorem dec_induction {P : Nat → Prop} (one : ∀ n, n < 10 → P n) (more : ∀ n, 10 ≤ n → P (n / 10) → P n)
    (n : Nat) : P n := by
  induction n using Nat.strong_induction_on with
  | _ n ih =>
    obtain h | h := Nat.lt_or_ge n 10
    · exact one n h
    · exact more n h (ih (n / 10) (by omega))

/-! ## What `dec` writes -/

theorem dec_ne_nil (n : Nat) : dec n ≠ [] := by
  obtain h | h := Nat.lt_or_ge n 10
  · simp [dec_of_lt h]
  · simp [dec_of_ge h]

theorem value_dec (n : Nat) : value (dec n) = n := by
  induction n using dec_induction with
  | one n h => simp [dec_of_lt h, value, digit_toNat h]
  | more n h ih =>
    rw [dec_of_ge h, value_append_digit, ih, digit_toNat (by omega)]
    omega

theorem isDigit_of_mem_dec {n : Nat} {d : Byte} (hd : d ∈ dec n) : isDigit d = true := by
  induction n using dec_induction with
  | one n h =>
    rw [dec_of_lt h, List.mem_singleton] at hd
    exact hd ▸ isDigit_digit h
  | more n h ih =>
    rw [dec_of_ge h, List.mem_append, List.mem_singleton] at hd
    obtain hd | rfl := hd
    · exact ih hd
    · exact isDigit_digit (by omega)

/-- A leading zero would stand already in `dec (n / 10)`, and `n / 10` is not 0. -/
theorem eq_zero_of_dec_head_zero {n : Nat} (hz : (dec n).head? = some 0x30) : n = 0 := by
  induction n using dec_induction with
  | one n h =>
    rw [dec_of_lt h, List.head?_singleton, Option.some.injEq] at hz
    exact digit_eq_zero_char h hz
  | more n h ih =>
    rw [dec_of_ge h, List.head?_append_of_ne_nil _ (dec_ne_nil _)] at hz
    have hq : n / 10 = 0 := ih hz
    omega

end Sys2Proof.Machine

namespace Sys2Proof.Proofs.DecimalText

open Sys2Proof.Machine

/-- Settles O31, from the rules for `dec`: `value_dec`, `isDigit_of_mem_dec` and `eq_zero_of_dec_head_zero`. -/
theorem decimalText : Obligations.DecimalText :=
  ⟨value_append_digit, fun n =>
    ⟨value_dec n, fun d hd => (isDigit_iff d).mp (isDigit_of_mem_dec hd), eq_zero_of_dec_head_zero⟩⟩

end Sys2Proof.Proofs.DecimalText
end

section
/-! PROOF. The invariant of 10_state.md R29: it holds at reset, each operation of the framer keeps it, and so does every
step. -/

namespace Sys2Proof.Machine

/-! ## States that meet the invariant -/

theorem inv_of_idle {s : State} (hrx : s.rx = .idle) (hesc : s.esc = false) (hbuf : s.buf = []) : Inv s :=
  ⟨fun _ => ⟨hesc, hbuf⟩, hbuf ▸ memory_wf_nil s.cfg, fun _ => hrx⟩

theorem inv_resetWith (c : Config) : Inv (State.resetWith c) := inv_of_idle rfl rfl rfl

theorem inv_toIdle (s : State) : Inv (toIdle s) := inv_of_idle rfl rfl rfl

/-- The outcome and `opi` are outside the invariant. -/
theorem inv_finish {o : OpOutcome} {s : State} : Inv (finish o s) ↔ Inv s := Iff.rfl

/-! ## Received bytes -/

@[simp] theorem rxBody_isOpen (c : Config) (b : Byte) (s : State) : (rxBody c b s).isOpen = s.isOpen := by
  obtain ⟨_, _, _, _, h⟩ := rxBody_writes c b s.rx s.esc s.buf
  rw [h s rfl rfl rfl]

@[simp] theorem rxBody_cfg (c : Config) (b : Byte) (s : State) : (rxBody c b s).cfg = s.cfg := by
  obtain ⟨_, _, _, _, h⟩ := rxBody_writes c b s.rx s.esc s.buf
  rw [h s rfl rfl rfl]

/-- R29 (1): a byte that leaves the framer in `Idle` leaves nothing of a frame. -/
theorem rxBody_idle_empty {c : Config} {b : Byte} {s : State} (hs : s.rx = .idle → s.esc = false ∧ s.buf = [])
    (h : (rxBody c b s).rx = .idle) : (rxBody c b s).esc = false ∧ (rxBody c b s).buf = [] := by
  obtain ⟨-, -, e⟩ | ⟨-, -, e⟩ | ⟨-, -, e⟩ | ⟨hr, -, e⟩ | ⟨hr, v, e⟩ := rxBody_cases c b s <;> rw [e] at h ⊢
  · cases h
  · exact hs h
  · obtain ⟨-, e⟩ | ⟨-, e⟩ := endFrame_cases c s <;> rw [e] <;> exact ⟨rfl, rfl⟩
  · cases hr.symm.trans h
  · by_cases hl : (setEsc false s).buf.length = c.cap
    · rw [bufAppend_full hl]; exact ⟨rfl, rfl⟩
    · rw [bufAppend_room hl] at h; cases hr.symm.trans h

theorem inv_rxBody {s : State} (ho : s.isOpen = true) (hs : Inv s) (b : Byte) : Inv (rxBody s.cfg b s) := by
  obtain ⟨hidle, hwf, -⟩ := hs
  exact ⟨rxBody_idle_empty hidle, by simpa using rxBody_wf hwf b, by simp [ho]⟩

theorem inv_rxBytes {s : State} (ho : s.isOpen = true) (hs : Inv s) (bs : List Byte) : Inv (rxBytes s.cfg bs s) := by
  induction bs generalizing s with
  | nil => exact hs
  | cons b bs ih => simpa [rxBytes_cons] using ih (s := rxBody s.cfg b s) (by simpa using ho) (inv_rxBody ho hs b)

/-! ## Draws -/

/-- A read's draw takes an injected answer or counts a free one. -/
theorem takeRead_eq (s : State) : ∃ reads draw, takeRead s = { s with reads := reads, draw := draw } := by
  obtain ⟨reads, h⟩ | h := takeRead_cases s
  · exact ⟨reads, s.draw, h⟩
  · exact ⟨s.reads, s.draw + 1, h⟩

/-- A write's draw takes an injected answer or counts a free one. -/
theorem takeWrite_eq (s : State) : ∃ writes draw, takeWrite s = { s with writes := writes, draw := draw } := by
  obtain ⟨writes, h⟩ | h := takeWrite_cases s
  · exact ⟨writes, s.draw, h⟩
  · exact ⟨s.writes, s.draw + 1, h⟩

/-! ## Operations -/

theorem inv_pollAnswer {a : ReadAnswer} {s t : State} (ho : s.isOpen = true) (hs : Inv s)
    (h : pollAnswer s.cfg a s = .next t) : Inv t := by
  obtain ⟨-, rfl⟩ | ⟨bs, -, rfl⟩ | ⟨-, rfl⟩ := pollAnswer_next_cases h
  · exact hs
  · exact inv_finish.mpr (inv_rxBytes ho hs bs)
  · exact hs

theorem inv_txWrite {bytes : List Byte} {w : WriteAnswer} {s t : State} (hs : Inv s)
    (h : txWrite bytes w s = .next t) : Inv t := by
  obtain ⟨-, rfl⟩ | ⟨k, -, rfl⟩ := txWrite_next_cases h <;> exact hs

/-- Every operation keeps the invariant. -/
theorem inv_exec {i : Instr} {s t : State} (hd : s.cfg.distinct = true) (hs : Inv s) (h : exec i s = .next t) :
    Inv t := by
  obtain ⟨-, ⟨-, o, pads, draw, rfl⟩ | ⟨-, rfl⟩ | ⟨-, -, rfl⟩ | ⟨-, ho, b, -, rfl⟩ | ⟨-, ho, hp⟩ |
    ⟨tag, p, -, -, hw⟩⟩ := exec_next_cases hd h
  · exact hs
  · exact inv_toIdle _
  · exact inv_toIdle _
  · exact inv_finish.mpr (inv_rxBody ho hs b)
  · obtain ⟨reads, draw, e⟩ := takeRead_eq s
    rw [e] at hp
    exact inv_pollAnswer (s := { s with reads := reads, draw := draw }) ho hs hp
  · obtain ⟨writes, draw, e⟩ := takeWrite_eq s
    rw [e] at hw
    exact inv_txWrite (s := { s with writes := writes, draw := draw }) hs hw

end Sys2Proof.Machine

namespace Sys2Proof.Proofs.InvariantsHold

open Sys2Proof.Machine

/-- Settles O57: a step that gives a next state ran an operation under distinct framing constants, and every such
operation keeps the invariant. -/
theorem invariantsHold : Obligations.InvariantsHold := by
  refine ⟨fun _ _ _ _ _ _ => inv_of_idle rfl rfl rfl, fun s t hs h => ?_⟩
  obtain ⟨hd, i, hi⟩ := step_eq_next h
  exact inv_exec hd hs hi

/-- Settles O56: at reset the framer is idle and holds nothing. -/
theorem resetKeepsInvariant : Obligations.ResetKeepsInvariant :=
  ⟨inv_resetWith hw, inv_resetWith⟩

end Sys2Proof.Proofs.InvariantsHold
end

section
/-! PROOF. The output history is output only (10_state.md R27): every operation commutes with putting events before the
history, so what it does, what it answers and which events it appends do not depend on what the history holds. -/

namespace Sys2Proof.Machine

/-! ## A longer past -/

/-- `s` with the events `past` before its own. -/
def withPast (past : List Event) (s : State) : State := { s with ev := past ++ s.ev }

/-- Apply `f` to the next state, when there is one. -/
def mapNext (f : State → State) : Res → Res
  | .next s => .next (f s)
  | .fault r => .fault r
  | .refused r => .refused r

section
variable (past : List Event) (s : State)

@[simp] theorem withPast_isOpen : (withPast past s).isOpen = s.isOpen := rfl
@[simp] theorem withPast_fatal : (withPast past s).fatal = s.fatal := rfl
@[simp] theorem withPast_rx : (withPast past s).rx = s.rx := rfl
@[simp] theorem withPast_esc : (withPast past s).esc = s.esc := rfl
@[simp] theorem withPast_buf : (withPast past s).buf = s.buf := rfl
@[simp] theorem withPast_cfg : (withPast past s).cfg = s.cfg := rfl

/-! ## Updates of the state -/

@[simp] theorem emit_withPast (e : Event) : emit e (withPast past s) = withPast past (emit e s) := by
  simp [emit, withPast]

@[simp] theorem finish_withPast (o : OpOutcome) : finish o (withPast past s) = withPast past (finish o s) := rfl
@[simp] theorem setEsc_withPast (v : Bool) : setEsc v (withPast past s) = withPast past (setEsc v s) := rfl
@[simp] theorem setFatal_withPast : setFatal (withPast past s) = withPast past (setFatal s) := rfl
@[simp] theorem startFrame_withPast : startFrame (withPast past s) = withPast past (startFrame s) := rfl
@[simp] theorem toIdle_withPast : toIdle (withPast past s) = withPast past (toIdle s) := rfl
@[simp] theorem setOpen_withPast (v : Bool) : setOpen v (withPast past s) = withPast past (setOpen v s) := rfl
@[simp] theorem setBuf_withPast (bs : List Byte) : setBuf bs (withPast past s) = withPast past (setBuf bs s) := rfl

@[simp] theorem bufAppend_withPast (c : Config) (b : Byte) :
    bufAppend c b (withPast past s) = withPast past (bufAppend c b s) := by
  by_cases h : s.buf.length = c.cap <;> simp [bufAppend, h]

/-! ## Draws -/

@[simp] theorem readAnswer_withPast (c : Config) : readAnswer c (withPast past s) = readAnswer c s := rfl
@[simp] theorem writeAnswer_withPast (n : Nat) : writeAnswer n (withPast past s) = writeAnswer n s := rfl

@[simp] theorem takeRead_withPast : takeRead (withPast past s) = withPast past (takeRead s) := by
  unfold takeRead; cases h : s.reads <;> simp [withPast, h]

@[simp] theorem takeWrite_withPast : takeWrite (withPast past s) = withPast past (takeWrite s) := by
  unfold takeWrite; cases h : s.writes <;> simp [withPast, h]

@[simp] theorem takePad_withPast : takePad (withPast past s) = withPast past (takePad s) := by
  unfold takePad; cases h : s.pads <;> simp [withPast, h]

end

@[simp] theorem takePads_withPast (past : List Event) (m : Nat) (s : State) :
    takePads m (withPast past s) = withPast past (takePads m s) := by
  induction m generalizing s with
  | zero => rfl
  | succ m ih => simp [takePads, ih]

@[simp] theorem padBytes_withPast (past : List Event) (c : Config) (m : Nat) (s : State) :
    padBytes c m (withPast past s) = padBytes c m s := by
  induction m generalizing s with
  | zero => rfl
  | succ m ih =>
    have hb : padByte c (withPast past s) = padByte c s := rfl
    simp [padBytes, ih, hb]

/-! ## The framer -/

section
variable (past : List Event) (c : Config) (s : State)

@[simp] theorem endFrame_withPast : endFrame c (withPast past s) = withPast past (endFrame c s) := by
  by_cases h : s.buf = [] <;> simp [endFrame, deliver, h]

@[simp] theorem escapeByte_withPast : escapeByte (withPast past s) = withPast past (escapeByte s) := rfl

@[simp] theorem transposedFend_withPast :
    transposedFend c (withPast past s) = withPast past (transposedFend c s) :=
  bufAppend_withPast past (setEsc false s) c _

@[simp] theorem transposedFesc_withPast :
    transposedFesc c (withPast past s) = withPast past (transposedFesc c s) :=
  bufAppend_withPast past (setEsc false s) c _

@[simp] theorem dataByte_withPast (b : Byte) : dataByte c b (withPast past s) = withPast past (dataByte c b s) :=
  bufAppend_withPast past (setEsc false s) c b

@[simp] theorem rxBody_withPast (b : Byte) : rxBody c b (withPast past s) = withPast past (rxBody c b s) := by
  cases hr : s.rx <;> cases hc : classOf c b <;> simp [rxBody, hr, hc]

end

@[simp] theorem rxBytes_withPast (past : List Event) (c : Config) (bs : List Byte) (s : State) :
    rxBytes c bs (withPast past s) = withPast past (rxBytes c bs s) := by
  induction bs generalizing s with
  | nil => rfl
  | cons b bs ih => simp [rxBytes_cons, ih]

/-! ## Preconditions and endings -/

section
variable (past : List Event) (s : State)

@[simp] theorem mapNext_refused (f : State → State) (r : Refusal) : mapNext f (.refused r) = .refused r := rfl

@[simp] theorem endOk_withPast (r : OpResult) :
    endOk r (withPast past s) = mapNext (withPast past) (endOk r s) := rfl

@[simp] theorem endErr_withPast (e : CodecError) :
    endErr e (withPast past s) = mapNext (withPast past) (endErr e s) := rfl

@[simp] theorem raiseFatal_withPast (d : Direction) :
    raiseFatal d (withPast past s) = mapNext (withPast past) (raiseFatal d s) := by
  simp [raiseFatal, mapNext]

@[simp] theorem whenRunning_withPast (k : Res) :
    whenRunning (withPast past s) (mapNext (withPast past) k) = mapNext (withPast past) (whenRunning s k) := by
  cases h : s.fatal <;> simp [whenRunning, h]

@[simp] theorem whenOpen_withPast (k : Res) :
    whenOpen (withPast past s) (mapNext (withPast past) k) = mapNext (withPast past) (whenOpen s k) := by
  cases h : s.fatal <;> cases ho : s.isOpen <;> simp [whenOpen, whenRunning, h, ho]

@[simp] theorem endKind_withPast (k : Kind) :
    endKind k (withPast past s) = mapNext (withPast past) (endKind k s) := by
  simp [endKind]

@[simp] theorem inState_withPast (st : RxState) (s' : State) :
    inState st (withPast past s) (withPast past s') = mapNext (withPast past) (inState st s s') := by
  by_cases h : s.rx = st <;> simp [inState, h, ← whenOpen_withPast]

@[simp] theorem pollAnswer_withPast (c : Config) (a : ReadAnswer) :
    pollAnswer c a (withPast past s) = mapNext (withPast past) (pollAnswer c a s) := by
  cases a <;> simp [pollAnswer]

@[simp] theorem txWrite_withPast (bytes : List Byte) (w : WriteAnswer) :
    txWrite bytes w (withPast past s) = mapNext (withPast past) (txWrite bytes w s) := by
  cases w with
  | written k => by_cases h : k = bytes.length <;> simp [txWrite, h]
  | writeError => simp [txWrite]

/-! ## Instructions -/

theorem execBuild_withPast (dst src : Text) (lit : List Byte) (total : Nat) :
    execBuild dst src lit total (withPast past s) =
      mapNext (withPast past) (execBuild dst src lit total s) := by
  cases hd : encodeAddr s.cfg dst true false with
  | none => simp [execBuild, hd]
  | some d => cases ha : encodeAddr s.cfg src false true <;> simp [execBuild, hd, ha]

/-- Every instruction does the same after any past. -/
theorem exec_withPast (i : Instr) : exec i (withPast past s) = mapNext (withPast past) (exec i s) := by
  cases i <;> try exact endKind_withPast past s _
  case openSession => simp [exec, execOpen]
  case closeSession => simp [exec, execClose]
  case rxByte b => simp [exec, execRxByte]
  case rxPoll => simp [exec, execRxPoll]
  case txFrame tag p => simp [exec, execTxFrame]
  case aenc call cmd last =>
    cases h : encodeAddr s.cfg call cmd last <;> simp [exec, execAenc, h]
  case adec a rep =>
    by_cases h : a.length = s.cfg.addrLen <;> simp [exec, execAdec, h]
  case finterp f => cases h : interpret s.cfg f <;> simp [exec, execFinterp, h]
  case build dst src lit total => exact execBuild_withPast past s dst src lit total
  case reservedOp => rfl
  case rxIdleFend => simp [exec, execRxIdleFend]
  case rxIdleOther b => by_cases h : classOf s.cfg b = .fend <;> simp [exec, execRxIdleOther, h]
  case rxInFrameFend => simp [exec, execRxInFrameFend]
  case rxInFrameFesc => simp [exec, execRxInFrameFesc]
  case rxInFrameTfend => simp [exec, execRxInFrameTfend]
  case rxInFrameTfesc => simp [exec, execRxInFrameTfesc]
  case rxInFrameOther b => by_cases h : classOf s.cfg b = .other <;> simp [exec, execRxInFrameOther, h]

end

/-! ## Any history -/

theorem withHistory_eq (h : List Event) (s : State) :
    ({ s with ev := h } : State) = withPast h { s with ev := [] } := by
  simp [withPast]

theorem mapNext_eq_next {f : State → State} {k : Res} {t : State} :
    mapNext f k = .next t ↔ ∃ u, k = .next u ∧ f u = t := by
  cases k <;> simp [mapNext]

theorem mapNext_eq_refused {f : State → State} {k : Res} {r : Refusal} :
    mapNext f k = .refused r ↔ k = .refused r := by
  cases k <;> simp [mapNext]

/-- What an instruction answers in a state follows from what it answers in that state without its history. -/
theorem exec_eq_mapNext (i : Instr) (s : State) (h : List Event) :
    exec i { s with ev := h } = mapNext (withPast h) (exec i { s with ev := [] }) := by
  rw [withHistory_eq, exec_withPast]

end Sys2Proof.Machine

namespace Sys2Proof.Proofs.HistoryIsNeverRead

open Sys2Proof.Machine

/-- Settles O50: an instruction answers in any history what it answers in the empty one, behind that history. -/
theorem historyIsNeverRead : Obligations.HistoryIsNeverRead := by
  intro i s h
  have hs : exec i s = mapNext (withPast s.ev) (exec i { s with ev := [] }) := exec_eq_mapNext i s s.ev
  rw [exec_eq_mapNext i s h, hs]
  constructor
  · intro t ht
    obtain ⟨u, hu, rfl⟩ := mapNext_eq_next.mp ht
    exact ⟨u.ev, rfl, mapNext_eq_next.mpr ⟨u, hu, rfl⟩⟩
  · intro r hr
    exact mapNext_eq_refused.mpr (mapNext_eq_refused.mp hr)

/-- Settles O49: the events are those that O50 appends. -/
theorem historyGrows : Obligations.HistoryGrows := by
  intro i s t h
  obtain ⟨es, hes, -⟩ := (historyIsNeverRead i s []).1 t h
  exact ⟨es, hes⟩

end Sys2Proof.Proofs.HistoryIsNeverRead
end

section
/-! PROOF. How an operation ends (10_state.md R22, R24; 60_exceptions.md R244): with an outcome after work that keeps
`opi`, `fatal`, the program and the parameters, or by a transport failure that also keeps the session and the framer.
Said under any parameters, where `exec_next_cases` asks for distinct framing constants. -/

namespace Sys2Proof.Machine

/-! ## What the work of an operation keeps -/

/-- `s'` agrees with `s` on what only the end of an operation may change (`opi`, `fatal`) and on what none does. -/
structure SameRun (s s' : State) : Prop where
  opi : s'.opi = s.opi
  fatal : s'.fatal = s.fatal
  prog : s'.prog = s.prog
  cfg : s'.cfg = s.cfg

/-- `s'` agrees with `s` on the session and the framer. -/
structure SameFramer (s s' : State) : Prop where
  isOpen : s'.isOpen = s.isOpen
  rx : s'.rx = s.rx
  esc : s'.esc = s.esc
  buf : s'.buf = s.buf

theorem SameRun.refl (s : State) : SameRun s s := ⟨rfl, rfl, rfl, rfl⟩

theorem SameRun.trans {s s' s'' : State} (h : SameRun s s') (h' : SameRun s' s'') : SameRun s s'' :=
  ⟨h'.opi.trans h.opi, h'.fatal.trans h.fatal, h'.prog.trans h.prog, h'.cfg.trans h.cfg⟩

theorem sameRun_takeRead (s : State) : SameRun s (takeRead s) := by
  obtain ⟨_, _, h⟩ := takeRead_eq s
  exact h ▸ ⟨rfl, rfl, rfl, rfl⟩

theorem sameFramer_takeRead (s : State) : SameFramer s (takeRead s) := by
  obtain ⟨_, _, h⟩ := takeRead_eq s
  exact h ▸ ⟨rfl, rfl, rfl, rfl⟩

theorem sameRun_takeWrite (s : State) : SameRun s (takeWrite s) := by
  obtain ⟨_, _, h⟩ := takeWrite_eq s
  exact h ▸ ⟨rfl, rfl, rfl, rfl⟩

theorem sameFramer_takeWrite (s : State) : SameFramer s (takeWrite s) := by
  obtain ⟨_, _, h⟩ := takeWrite_eq s
  exact h ▸ ⟨rfl, rfl, rfl, rfl⟩

theorem sameRun_endFrame (c : Config) (s : State) : SameRun s (endFrame c s) := by
  obtain ⟨-, h⟩ | ⟨-, h⟩ := endFrame_cases c s <;> exact h ▸ ⟨rfl, rfl, rfl, rfl⟩

theorem sameRun_store (c : Config) (v : Byte) (s : State) : SameRun s (bufAppend c v (setEsc false s)) := by
  constructor <;> simp

theorem sameRun_rxBytes (c : Config) (bs : List Byte) (s : State) : SameRun s (rxBytes c bs s) := by
  obtain ⟨_, _, _, _, h⟩ := rxBytes_writes c bs s.rx s.esc s.buf
  exact h s rfl rfl rfl ▸ ⟨rfl, rfl, rfl, rfl⟩

/-! ## The two ends of an operation -/

/-- The operation ended with an outcome and no transport failure. -/
def Completes (s t : State) : Prop := ∃ o s', SameRun s s' ∧ t = finish o s'

/-- The transport failed on a read of RXPOLL or a write of TXFRAME, and the operation raised it (R244). -/
def FailsTransport (i : Instr) (s t : State) : Prop :=
  ∃ d s', (i = .rxPoll ∧ d = .read ∨ (∃ tag p, i = .txFrame tag p) ∧ d = .write) ∧ SameRun s s' ∧ SameFramer s s' ∧
    t = finish (.fatal (.transportFailure d)) (setFatal (emit (.log (.transportFailure d)) s'))

theorem completes_of_inState {st : RxState} {s s' t : State} (hs : SameRun s s') (h : inState st s s' = .next t) :
    s.fatal = false ∧ Completes s t := by
  obtain ⟨hf, -, -, ht⟩ := inState_eq_next.mp h
  exact ⟨hf, _, s', hs, ht⟩

theorem completes_of_receive {i : Instr} {s t : State} (hr : isReceive i = true) (h : exec i s = .next t) :
    s.fatal = false ∧ Completes s t := by
  cases i <;> first | (simp [isReceive] at hr; done) | skip
  case rxByte b =>
    obtain ⟨hf, -, ht⟩ := whenOpen_eq_next.mp h
    exact ⟨hf, _, _, sameRun_rxBytes s.cfg [b] s, endOk_eq_next.mp ht⟩
  case rxIdleFend => exact completes_of_inState (s' := startFrame s) ⟨rfl, rfl, rfl, rfl⟩ h
  case rxIdleOther b =>
    simp only [exec, execRxIdleOther] at h
    split at h
    · cases h
    · exact completes_of_inState (.refl s) h
  case rxInFrameFend => exact completes_of_inState (sameRun_endFrame s.cfg s) h
  case rxInFrameFesc => exact completes_of_inState (s' := escapeByte s) ⟨rfl, rfl, rfl, rfl⟩ h
  case rxInFrameTfend => exact completes_of_inState (sameRun_store s.cfg _ s) h
  case rxInFrameTfesc => exact completes_of_inState (sameRun_store s.cfg _ s) h
  case rxInFrameOther b =>
    simp only [exec, execRxInFrameOther] at h
    split at h
    · exact completes_of_inState (sameRun_store s.cfg b s) h
    · cases h

theorem ends_of_rxPoll {s t : State} (h : exec .rxPoll s = .next t) :
    s.fatal = false ∧ (Completes s t ∨ FailsTransport .rxPoll s t) := by
  obtain ⟨hf, -, ht⟩ := whenOpen_eq_next.mp h
  refine ⟨hf, ?_⟩
  obtain ⟨-, ht⟩ | ⟨bs, -, ht⟩ | ⟨-, ht⟩ := pollAnswer_next_cases ht
  · exact .inl ⟨_, _, sameRun_takeRead s, ht⟩
  · exact .inl ⟨_, _, (sameRun_takeRead s).trans (sameRun_rxBytes _ bs _), ht⟩
  · exact .inr ⟨.read, _, .inl ⟨rfl, rfl⟩, sameRun_takeRead s, sameFramer_takeRead s, ht⟩

theorem ends_of_txFrame {tag : Byte} {p : List Byte} {s t : State} (h : exec (.txFrame tag p) s = .next t) :
    s.fatal = false ∧ (Completes s t ∨ FailsTransport (.txFrame tag p) s t) := by
  obtain ⟨hf, -, ht⟩ := whenOpen_eq_next.mp h
  refine ⟨hf, ?_⟩
  have hrun : ∀ e, SameRun s (emit e (takeWrite s)) := fun e => (sameRun_takeWrite s).trans ⟨rfl, rfl, rfl, rfl⟩
  obtain ⟨-, ht⟩ | ⟨k, -, ht⟩ := txWrite_next_cases ht
  · exact .inl ⟨_, _, hrun _, ht⟩
  · obtain ⟨ho, hr, he, hb⟩ := sameFramer_takeWrite s
    exact .inr ⟨.write, _, .inr ⟨⟨tag, p, rfl⟩, rfl⟩, hrun _, ⟨ho, hr, he, hb⟩, ht⟩

/-- How any operation ends when it gives a next state. -/
theorem exec_ends {i : Instr} {s t : State} (h : exec i s = .next t) :
    s.fatal = false ∧ (Completes s t ∨ FailsTransport i s t) := by
  by_cases hp : isPure i = true
  · obtain ⟨hf, o, pads, draw, ht, -⟩ := exec_pure_next hp h
    exact ⟨hf, .inl ⟨o, { s with pads := pads, draw := draw }, ⟨rfl, rfl, rfl, rfl⟩, ht⟩⟩
  by_cases hr : isReceive i = true
  · exact (completes_of_receive hr h).imp_right .inl
  cases i <;> first | (simp [isPure] at hp; done) | (simp [isReceive] at hr; done) | skip
  case openSession =>
    obtain ⟨hf, ht⟩ := whenRunning_eq_next.mp h
    exact ⟨hf, .inl ⟨_, toIdle (setOpen true s), ⟨rfl, rfl, rfl, rfl⟩, endOk_eq_next.mp ht⟩⟩
  case closeSession =>
    obtain ⟨hf, -, ht⟩ := whenOpen_eq_next.mp h
    exact ⟨hf, .inl ⟨_, toIdle (setOpen false s), ⟨rfl, rfl, rfl, rfl⟩, endOk_eq_next.mp ht⟩⟩
  case rxPoll => exact ends_of_rxPoll h
  case txFrame tag p => exact ends_of_txFrame h
  case reservedOp => cases h

end Sys2Proof.Machine

namespace Sys2Proof.Proofs.OperationEnds

open Sys2Proof.Machine

/-- Settles O48: both ends of an operation go through `finish`, which alone moves `opi`. -/
theorem opiAdvances : Obligations.OpiAdvances := by
  intro i s t h
  obtain ⟨-, ⟨o, s', hs, rfl⟩ | ⟨d, s', -, hs, -, rfl⟩⟩ := exec_ends h <;>
    exact ⟨congrArg (· + 1) hs.opi, hs.prog, hs.cfg⟩

/-- Settles O51: an operation that completes leaves `fatal` false, as it found it. -/
theorem onlyTransportFailureIsFatal : Obligations.OnlyTransportFailureIsFatal := by
  intro i s t h hfatal
  obtain ⟨hf, ⟨o, s', hs, rfl⟩ | ⟨d, s', hi, -, ⟨ho, hr, he, hb⟩, rfl⟩⟩ := exec_ends h
  · rw [finish_fatal, hs.fatal, hf] at hfatal
    cases hfatal
  · exact ⟨d, hi, rfl, by simp, ho, hr, he, hb⟩

end Sys2Proof.Proofs.OperationEnds
end

section
/-! PROOF. The pure operations (10_state.md R35) and one step (10_state.md R22): both follow from the model's laws. -/

namespace Sys2Proof.Proofs.PureFrame

open Sys2Proof.Machine

/-- Settles O52: a pure operation changes its outcome, `opi` and at most the draws of BUILD. -/
theorem pureFrame : Obligations.PureFrame := by
  intro i s t hp h
  obtain ⟨-, o, pads, draw, rfl, hdraws⟩ := exec_pure_next hp h
  exact ⟨rfl, rfl, rfl, rfl, rfl, fun _ => rfl, rfl, rfl, rfl, rfl, rfl, hdraws⟩

end Sys2Proof.Proofs.PureFrame

namespace Sys2Proof.Proofs.StepRunsDecodedOperation

open Sys2Proof.Machine

/-- Settles O2: of the three things a step can do, an operation that is there and decodes leaves the last. -/
theorem stepRunsDecodedOperation : Obligations.StepRunsDecodedOperation := by
  intro s w i hd hw hi
  obtain ⟨hnone, -⟩ | ⟨w', hw', hbad, -⟩ | ⟨w', i', hw', hi', hstep⟩ := step_cases hd
  · cases hw.symm.trans hnone
  · cases hw.symm.trans hw'
    cases hi.symm.trans hbad
  · cases hw.symm.trans hw'
    cases hi.symm.trans hi'
    exact hstep

end Sys2Proof.Proofs.StepRunsDecodedOperation
end

section
/-! PROOF. The bounded append (20_memory.md R43), and TXFRAME beside the framer (R56): TXFRAME commutes with exchanging
the framer's fields, so it does not read them, and what it writes is elsewhere in the state. -/

namespace Sys2Proof.Machine

/-! ## Another framer in the same state -/

/-- `s` with `rx`, `esc` and `buf` in place of its framer's fields. -/
def withFramer (rx : RxState) (esc : Bool) (buf : List Byte) (s : State) : State :=
  { s with rx := rx, esc := esc, buf := buf }

section
variable (rx : RxState) (esc : Bool) (buf : List Byte) (s : State)

@[simp] theorem withFramer_fatal : (withFramer rx esc buf s).fatal = s.fatal := rfl
@[simp] theorem withFramer_isOpen : (withFramer rx esc buf s).isOpen = s.isOpen := rfl
@[simp] theorem withFramer_cfg : (withFramer rx esc buf s).cfg = s.cfg := rfl

@[simp] theorem emit_withFramer (e : Event) :
    emit e (withFramer rx esc buf s) = withFramer rx esc buf (emit e s) := rfl

@[simp] theorem endOk_withFramer (r : OpResult) :
    endOk r (withFramer rx esc buf s) = mapNext (withFramer rx esc buf) (endOk r s) := rfl

@[simp] theorem raiseFatal_withFramer (d : Direction) :
    raiseFatal d (withFramer rx esc buf s) = mapNext (withFramer rx esc buf) (raiseFatal d s) := rfl

@[simp] theorem whenOpen_withFramer (k : Res) :
    whenOpen (withFramer rx esc buf s) (mapNext (withFramer rx esc buf) k) =
      mapNext (withFramer rx esc buf) (whenOpen s k) := by
  cases hf : s.fatal <;> cases ho : s.isOpen <;> simp [whenOpen, whenRunning, hf, ho]

@[simp] theorem writeAnswer_withFramer (n : Nat) : writeAnswer n (withFramer rx esc buf s) = writeAnswer n s := rfl

@[simp] theorem takeWrite_withFramer :
    takeWrite (withFramer rx esc buf s) = withFramer rx esc buf (takeWrite s) := by
  unfold takeWrite; cases h : s.writes <;> simp [withFramer, h]

@[simp] theorem txWrite_withFramer (bytes : List Byte) (w : WriteAnswer) :
    txWrite bytes w (withFramer rx esc buf s) = mapNext (withFramer rx esc buf) (txWrite bytes w s) := by
  cases w with
  | written k => by_cases h : k = bytes.length <;> simp [txWrite, h]
  | writeError => simp [txWrite]

/-- R56: TXFRAME reads no framer field. -/
theorem exec_txFrame_withFramer (tag : Byte) (p : List Byte) :
    exec (.txFrame tag p) (withFramer rx esc buf s) =
      mapNext (withFramer rx esc buf) (exec (.txFrame tag p) s) := by
  simp [exec, execTxFrame]

end

/-! ## What TXFRAME writes -/

/-- TXFRAME writes `fatal`, the history, `opi`, the outcome and the draw of one write. -/
theorem exec_txFrame_writes {tag : Byte} {p : List Byte} {s t : State} (h : exec (.txFrame tag p) s = .next t) :
    ∃ fatal ev opi out writes draw,
      t = { s with fatal := fatal, ev := ev, opi := opi, out := out, writes := writes, draw := draw } := by
  obtain ⟨-, -, hw⟩ := whenOpen_eq_next.mp h
  obtain ⟨writes, draw, hdraw⟩ := takeWrite_eq s
  rw [hdraw] at hw
  obtain ⟨-, rfl⟩ | ⟨k, -, rfl⟩ := txWrite_next_cases hw
  · exact ⟨_, _, _, _, writes, draw, rfl⟩
  · exact ⟨_, _, _, _, writes, draw, rfl⟩

end Sys2Proof.Machine

namespace Sys2Proof.Proofs.FrameBuffer

open Sys2Proof.Machine

/-- Settles O53: TXFRAME commutes with exchanging the framer, and the fields it writes are none of those named. -/
theorem txFrameFrame : Obligations.TxFrameFrame := by
  intro tag p s t h
  have hexchange : ∀ rx esc buf,
      exec (.txFrame tag p) (withFramer rx esc buf s) = .next (withFramer rx esc buf t) := fun rx esc buf =>
    (exec_txFrame_withFramer rx esc buf s tag p).trans (congrArg (mapNext (withFramer rx esc buf)) h)
  obtain ⟨_, _, _, _, _, _, rfl⟩ := exec_txFrame_writes h
  exact ⟨rfl, rfl, fun _ => rfl, rfl, rfl, rfl, rfl, rfl, hexchange⟩

/-- Settles O16: the two branches of BufAppend. -/
theorem boundedAppend : Obligations.BoundedAppend := fun _ b _ =>
  ⟨fun hfull => bufAppend_full hfull b, fun hroom => bufAppend_room hroom b⟩

end Sys2Proof.Proofs.FrameBuffer
end

section
/-! PROOF. The decoder and the encoder of opcode_table.json are inverse to each other (30_encoding.md R68 to R71, R80,
R81; 40_framer.md R101): one part per format, each with the words of the format taken apart once. -/

namespace Sys2Proof.Machine

/-! ## Control bytes (R68 to R71) -/

/-- R163 to R167: the row of an S type. -/
def sRow (ty : SType) (nr : BitVec 3) (pf : BitVec 1) (ss : BitVec 2) : Instr :=
  match ty with
  | .rr => .ctrlRR nr pf
  | .rnr => .ctrlRNR nr pf
  | .rej => .ctrlREJ nr pf
  | .srej => .ctrlSREJ nr pf
  | .unknown => .ctrlSUnknown nr pf ss

/-- R168 to R177: the row of a U type. -/
def uRow (ty : UType) (mHi : BitVec 3) (pf : BitVec 1) (mLo : BitVec 2) : Instr :=
  match ty with
  | .sabme => .ctrlSABME pf
  | .sabm => .ctrlSABM pf
  | .disc => .ctrlDISC pf
  | .dm => .ctrlDM pf
  | .ua => .ctrlUA pf
  | .frmr => .ctrlFRMR pf
  | .ui => .ctrlUI pf
  | .xid => .ctrlXID pf
  | .test => .ctrlTEST pf
  | .unknown => .ctrlUUnknown mHi pf mLo

theorem iByte_fields (ns nr : BitVec 3) (pf : BitVec 1) :
    (iByte ns nr pf).getLsbD 0 = false ∧ fieldNs (iByte ns nr pf) = ns ∧ fieldNr (iByte ns nr pf) = nr ∧
      fieldPf (iByte ns nr pf) = pf := by
  revert ns nr pf; decide

theorem sByte_fields (ss : BitVec 2) (nr : BitVec 3) (pf : BitVec 1) :
    (sByte (sSelOfBits ss) nr pf).getLsbD 0 = true ∧ (sByte (sSelOfBits ss) nr pf).getLsbD 1 = false ∧
      sSelector (sByte (sSelOfBits ss) nr pf) = sSelOfBits ss ∧ fieldNr (sByte (sSelOfBits ss) nr pf) = nr ∧
      fieldPf (sByte (sSelOfBits ss) nr pf) = pf ∧ (sByte (sSelOfBits ss) nr pf).extractLsb' 2 2 = ss := by
  revert ss nr pf; decide

theorem uByte_fields (mHi : BitVec 3) (mLo : BitVec 2) (pf : BitVec 1) :
    (uByte (uSelOfBits mHi mLo) pf).getLsbD 0 = true ∧ (uByte (uSelOfBits mHi mLo) pf).getLsbD 1 = true ∧
      uSelector (uByte (uSelOfBits mHi mLo) pf) = uSelOfBits mHi mLo ∧
      (uByte (uSelOfBits mHi mLo) pf).extractLsb' 5 3 = mHi ∧ fieldPf (uByte (uSelOfBits mHi mLo) pf) = pf ∧
      (uByte (uSelOfBits mHi mLo) pf).extractLsb' 2 2 = mLo := by
  revert mHi mLo pf; decide

/-- R68: every control byte has one of the three forms. -/
theorem ctrlByte_cases (b : Byte) :
    (∃ ns nr pf, b = iByte ns nr pf) ∨ (∃ ss nr pf, b = sByte (sSelOfBits ss) nr pf) ∨
      (∃ mHi mLo pf, b = uByte (uSelOfBits mHi mLo) pf) := by
  have hfields :
      (b.getLsbD 0 = false ∧ b = iByte (fieldNs b) (fieldNr b) (fieldPf b)) ∨
      (b.getLsbD 1 = false ∧ b = sByte (sSelOfBits (b.extractLsb' 2 2)) (fieldNr b) (fieldPf b)) ∨
      b = uByte (uSelOfBits (b.extractLsb' 5 3) (b.extractLsb' 2 2)) (fieldPf b) := by
    revert b; decide
  obtain ⟨-, h⟩ | ⟨-, h⟩ | h := hfields
  · exact .inl ⟨_, _, _, h⟩
  · exact .inr (.inl ⟨_, _, _, h⟩)
  · exact .inr (.inr ⟨_, _, _, h⟩)

theorem decodeCtrl_iByte (ns nr : BitVec 3) (pf : BitVec 1) : decodeCtrl (iByte ns nr pf) = .ctrlI ns nr pf := by
  obtain ⟨h0, hns, hnr, hpf⟩ := iByte_fields ns nr pf
  rw [decodeCtrl, if_pos h0, hns, hnr, hpf]

theorem decodeCtrl_sByte (ss : BitVec 2) (nr : BitVec 3) (pf : BitVec 1) :
    decodeCtrl (sByte (sSelOfBits ss) nr pf) = sRow (sTypeOf (sSelOfBits ss)) nr pf ss := by
  obtain ⟨h0, h1, hsel, hnr, hpf, hss⟩ := sByte_fields ss nr pf
  simp only [decodeCtrl, h0, h1, hsel, hnr, hpf, hss]
  rfl

theorem decodeCtrl_uByte (mHi : BitVec 3) (mLo : BitVec 2) (pf : BitVec 1) :
    decodeCtrl (uByte (uSelOfBits mHi mLo) pf) = uRow (uTypeOf (uSelOfBits mHi mLo)) mHi pf mLo := by
  obtain ⟨h0, h1, hsel, hhi, hpf, hlo⟩ := uByte_fields mHi mLo pf
  simp only [decodeCtrl, h0, h1, hsel, hhi, hpf, hlo]
  rfl

/-- R70: a selector of a named S type is that type's. -/
theorem sTypeOf_cases (sel : Byte) :
    (sTypeOf sel = .rr ∧ sel = selRR) ∨ (sTypeOf sel = .rnr ∧ sel = selRNR) ∨ (sTypeOf sel = .rej ∧ sel = selREJ) ∨
      (sTypeOf sel = .srej ∧ sel = selSREJ) ∨ sTypeOf sel = .unknown := by
  unfold sTypeOf
  split_ifs <;> simp [*]

/-- R71: a selector of a named U type is that type's. -/
theorem uTypeOf_cases (sel : Byte) :
    (uTypeOf sel = .sabme ∧ sel = selSABME) ∨ (uTypeOf sel = .sabm ∧ sel = selSABM) ∨
      (uTypeOf sel = .disc ∧ sel = selDISC) ∨ (uTypeOf sel = .dm ∧ sel = selDM) ∨ (uTypeOf sel = .ua ∧ sel = selUA) ∨
      (uTypeOf sel = .frmr ∧ sel = selFRMR) ∨ (uTypeOf sel = .ui ∧ sel = selUI) ∨ (uTypeOf sel = .xid ∧ sel = selXID) ∨
      (uTypeOf sel = .test ∧ sel = selTEST) ∨ uTypeOf sel = .unknown := by
  unfold uTypeOf
  split_ifs <;> simp [*]

theorem encode_sRow (c : Config) (ss : BitVec 2) (nr : BitVec 3) (pf : BitVec 1) :
    encode c (sRow (sTypeOf (sSelOfBits ss)) nr pf ss) = .ctrl8 (sByte (sSelOfBits ss) nr pf) := by
  obtain ⟨h, e⟩ | ⟨h, e⟩ | ⟨h, e⟩ | ⟨h, e⟩ | h := sTypeOf_cases (sSelOfBits ss) <;> rw [h]
  case inr.inr.inr.inr => rfl
  all_goals rw [e]; rfl

theorem encode_uRow (c : Config) (mHi : BitVec 3) (mLo : BitVec 2) (pf : BitVec 1) :
    encode c (uRow (uTypeOf (uSelOfBits mHi mLo)) mHi pf mLo) = .ctrl8 (uByte (uSelOfBits mHi mLo) pf) := by
  obtain ⟨h, e⟩ | ⟨h, e⟩ | ⟨h, e⟩ | ⟨h, e⟩ | ⟨h, e⟩ | ⟨h, e⟩ | ⟨h, e⟩ | ⟨h, e⟩ | ⟨h, e⟩ | h :=
    uTypeOf_cases (uSelOfBits mHi mLo) <;> rw [h]
  case inr.inr.inr.inr.inr.inr.inr.inr.inr => rfl
  all_goals rw [e]; rfl

theorem wellFormed_sRow (c : Config) (ss : BitVec 2) (nr : BitVec 3) (pf : BitVec 1) :
    wellFormed c (sRow (sTypeOf (sSelOfBits ss)) nr pf ss) = true := by
  cases h : sTypeOf (sSelOfBits ss) <;> simp [sRow, wellFormed, h]

theorem wellFormed_uRow (c : Config) (mHi : BitVec 3) (mLo : BitVec 2) (pf : BitVec 1) :
    wellFormed c (uRow (uTypeOf (uSelOfBits mHi mLo)) mHi pf mLo) = true := by
  cases h : uTypeOf (uSelOfBits mHi mLo) <;> simp [uRow, wellFormed, h]

theorem wellFormed_decodeCtrl (c : Config) (b : Byte) : wellFormed c (decodeCtrl b) = true := by
  obtain ⟨ns, nr, pf, rfl⟩ | ⟨ss, nr, pf, rfl⟩ | ⟨mHi, mLo, pf, rfl⟩ := ctrlByte_cases b
  · rw [decodeCtrl_iByte]; rfl
  · rw [decodeCtrl_sByte]; exact wellFormed_sRow c ss nr pf
  · rw [decodeCtrl_uByte]; exact wellFormed_uRow c mHi mLo pf

theorem encode_decodeCtrl (c : Config) (b : Byte) : encode c (decodeCtrl b) = .ctrl8 b := by
  obtain ⟨ns, nr, pf, rfl⟩ | ⟨ss, nr, pf, rfl⟩ | ⟨mHi, mLo, pf, rfl⟩ := ctrlByte_cases b
  · rw [decodeCtrl_iByte]; rfl
  · rw [decodeCtrl_sByte]; exact encode_sRow c ss nr pf
  · rw [decodeCtrl_uByte]; exact encode_uRow c mHi mLo pf

/-! ## Bytes that reach the framer (R101) -/

/-- R101: a byte of a named class is that class's constant, under any parameters. -/
theorem classOf_cases (c : Config) (b : Byte) :
    (classOf c b = .fend ∧ b = c.fend) ∨ (classOf c b = .fesc ∧ b = c.fesc) ∨ (classOf c b = .tfend ∧ b = c.tfend) ∨
      (classOf c b = .tfesc ∧ b = c.tfesc) ∨ classOf c b = .other := by
  unfold classOf
  split_ifs <;> simp [*]

theorem decodeRx_idle_other {c : Config} {b : Byte} (h : classOf c b ≠ .fend) :
    decodeRx c .idle b = .rxIdleOther b := by
  cases hk : classOf c b <;> simp_all [decodeRx]

theorem wellFormed_decodeRx (c : Config) (st : RxState) (b : Byte) : wellFormed c (decodeRx c st b) = true := by
  cases st <;> cases h : classOf c b <;> simp [decodeRx, wellFormed, h]

theorem encode_decodeRx (c : Config) (st : RxState) (b : Byte) : encode c (decodeRx c st b) = .rxClass st b := by
  obtain ⟨h, rfl⟩ | ⟨h, rfl⟩ | ⟨h, rfl⟩ | ⟨h, rfl⟩ | h := classOf_cases c b <;> cases st <;> simp [decodeRx, encode, h]

/-! ## Host operations (R80, R81) -/

theorem sortOf_eq_byte {o : Operand} : sortOf o = .byte ↔ ∃ b, o = .byte b := by cases o <;> simp [sortOf]
theorem sortOf_eq_bytes {o : Operand} : sortOf o = .bytes ↔ ∃ bs, o = .bytes bs := by cases o <;> simp [sortOf]
theorem sortOf_eq_text {o : Operand} : sortOf o = .text ↔ ∃ t, o = .text t := by cases o <;> simp [sortOf]
theorem sortOf_eq_bool {o : Operand} : sortOf o = .bool ↔ ∃ b, o = .bool b := by cases o <;> simp [sortOf]
theorem sortOf_eq_nat {o : Operand} : sortOf o = .nat ↔ ∃ n, o = .nat n := by cases o <;> simp [sortOf]

/-- R81: the codes outside R80's table are those of the rule's ranges. -/
theorem isReserved_iff (code : Byte) : isReserved code = true ↔ ReservedCode code := by revert code; decide

theorem decodeHost_reserved {c : Config} {w : HostWord} (h : isReserved w.code = true) :
    decodeHost c w = .ok (.reservedOp w.code) := by
  have hcodes : w.code ∉ hostCodes := by simpa [isReserved] using h
  simp only [hostCodes, List.mem_cons, List.not_mem_nil, or_false, not_or] at hcodes
  simp only [decodeHost, hcodes, if_false]

/-- The instruction `i` is not RESERVED_OP and has the word `w` of R80's table. -/
def IsHostWordOf (c : Config) (w : HostWord) (i : Instr) : Prop :=
  isReservedOp i = false ∧ wellFormed c i = true ∧ encode c i = .hostop w

theorem decodeHost_adec_eq_ok {c : Config} {args : List Operand} {i : Instr} (h : decodeHost c ⟨0x31, args⟩ = .ok i) :
    IsHostWordOf c ⟨0x31, args⟩ i := by
  simp only [decodeHost, BitVec.reduceEq, if_false, if_true] at h
  split at h
  · split at h <;> cases h
    exact ⟨rfl, beq_iff_eq.mpr ‹_›, rfl⟩
  · cases h

/-- A host operation that decodes is reserved or the word of what it decodes to. -/
theorem decodeHost_eq_ok {c : Config} {w : HostWord} {i : Instr} (h : decodeHost c w = .ok i) :
    (isReserved w.code = true ∧ i = .reservedOp w.code) ∨ IsHostWordOf c w i := by
  by_cases hr : isReserved w.code = true
  · rw [decodeHost_reserved hr] at h
    cases h
    exact .inl ⟨hr, rfl⟩
  · right
    obtain ⟨code, args⟩ := w
    by_cases hadec : code = 0x31
    · subst hadec
      exact decodeHost_adec_eq_ok h
    · simp only [decodeHost, if_neg hadec] at h
      split_ifs at h
      case neg => simp_all [isReserved, hostCodes]
      all_goals
        subst code
        split at h <;> cases h
        exact ⟨rfl, rfl, rfl⟩

/-- A word of R80's table decodes to its instruction. -/
theorem IsHostWordOf.decodeHost_eq {c : Config} {w : HostWord} {i : Instr} (h : IsHostWordOf c w i) :
    decodeHost c w = .ok i := by
  obtain ⟨hres, hwf, he⟩ := h
  cases i <;> cases he
  case reservedOp => cases hres
  case adec a rep => exact if_pos (beq_iff_eq.mp hwf)
  all_goals rfl

/-- An instruction's operands have the types of its code. -/
theorem IsHostWordOf.rightShape_eq {c : Config} {w : HostWord} {i : Instr} (h : IsHostWordOf c w i) :
    rightShape c w = true := by
  obtain ⟨hres, hwf, he⟩ := h
  cases i <;> cases he
  case reservedOp => cases hres
  case adec a rep => exact hwf
  all_goals rfl

theorem lookup_signatures {code : Byte} {sorts : List OperandSort} (h : signatures.lookup code = some sorts) :
    (code, sorts) ∈ signatures := by
  obtain ⟨l₁, l₂, h, -⟩ := List.lookup_eq_some_iff.mp h
  simp [h]

/-- Operands of the right shape are those of an instruction. -/
theorem exists_isHostWordOf {c : Config} {w : HostWord} (h : rightShape c w = true) : ∃ i, IsHostWordOf c w i := by
  obtain ⟨code, args⟩ := w
  simp only [rightShape, Bool.and_eq_true, beq_iff_eq] at h
  obtain ⟨hsig, haddr⟩ := h
  have hrow := lookup_signatures hsig
  simp only [signatures, List.mem_cons, List.not_mem_nil, or_false, Prod.mk.injEq, List.map_eq_cons_iff,
    List.map_eq_nil_iff, sortOf_eq_byte, sortOf_eq_bytes, sortOf_eq_text, sortOf_eq_bool, sortOf_eq_nat] at hrow
  obtain ⟨rfl, rfl⟩ | ⟨rfl, rfl⟩ | ⟨rfl, _, _, rfl, ⟨b, rfl⟩, rfl⟩ | ⟨rfl, rfl⟩ |
    ⟨rfl, _, _, rfl, ⟨tag, rfl⟩, _, _, rfl, ⟨p, rfl⟩, rfl⟩ |
    ⟨rfl, _, _, rfl, ⟨call, rfl⟩, _, _, rfl, ⟨cmd, rfl⟩, _, _, rfl, ⟨last, rfl⟩, rfl⟩ |
    ⟨rfl, _, _, rfl, ⟨a, rfl⟩, _, _, rfl, ⟨rep, rfl⟩, rfl⟩ | ⟨rfl, _, _, rfl, ⟨b, rfl⟩, rfl⟩ |
    ⟨rfl, _, _, rfl, ⟨f, rfl⟩, rfl⟩ |
    ⟨rfl, _, _, rfl, ⟨dst, rfl⟩, _, _, rfl, ⟨src, rfl⟩, _, _, rfl, ⟨lit, rfl⟩, _, _, rfl, ⟨total, rfl⟩, rfl⟩ := hrow
  · exact ⟨.openSession, rfl, rfl, rfl⟩
  · exact ⟨.closeSession, rfl, rfl, rfl⟩
  · exact ⟨.rxByte b, rfl, rfl, rfl⟩
  · exact ⟨.rxPoll, rfl, rfl, rfl⟩
  · exact ⟨.txFrame tag p, rfl, rfl, rfl⟩
  · exact ⟨.aenc call cmd last, rfl, rfl, rfl⟩
  · exact ⟨.adec a rep, rfl, haddr, rfl⟩
  · exact ⟨.cclass b, rfl, rfl, rfl⟩
  · exact ⟨.finterp f, rfl, rfl, rfl⟩
  · exact ⟨.build dst src lit total, rfl, rfl, rfl⟩

/-- A word of the wrong shape decodes to nothing, unless its code is reserved. -/
theorem decodeHost_of_wrongShape {c : Config} {w : HostWord} (hres : ¬ ReservedCode w.code)
    (hshape : rightShape c w = false) : decodeHost c w = .error .badOperand := by
  cases h : decodeHost c w with
  | error e => cases e; rfl
  | ok i =>
    obtain ⟨hr, -⟩ | hi := decodeHost_eq_ok h
    · exact absurd ((isReserved_iff w.code).mp hr) hres
    · cases hshape.symm.trans hi.rightShape_eq

theorem step_of_decode_error {s : State} {w : HostWord} (hd : s.cfg.distinct = true) (hw : fetch s = some w)
    (h : decode s.cfg (.hostop w) = .error .badOperand) : step s = .refused .badOperand := by
  simp [step, hd, hw, h]

end Sys2Proof.Machine

namespace Sys2Proof.Proofs.Encoding

open Sys2Proof.Machine

/-- Settles O5: format by format, the word of an instruction decodes by that format's rule. -/
theorem decodeOfEncode : Obligations.DecodeOfEncode := by
  intro c i hd hwf
  cases i
  case openSession | closeSession | rxByte | rxPoll | txFrame | aenc | adec | cclass | finterp | build =>
    exact IsHostWordOf.decodeHost_eq ⟨rfl, hwf, rfl⟩
  case reservedOp code => exact decodeHost_reserved (c := c) hwf
  case ctrlI ns nr pf => exact congrArg Except.ok (decodeCtrl_iByte ns nr pf)
  case ctrlRR nr pf => exact congrArg Except.ok (decodeCtrl_sByte 0 nr pf)
  case ctrlRNR nr pf => exact congrArg Except.ok (decodeCtrl_sByte 1 nr pf)
  case ctrlREJ nr pf => exact congrArg Except.ok (decodeCtrl_sByte 2 nr pf)
  case ctrlSREJ nr pf => exact congrArg Except.ok (decodeCtrl_sByte 3 nr pf)
  case ctrlSUnknown nr pf ss =>
    have hrow := decodeCtrl_sByte ss nr pf
    rw [eq_of_beq hwf] at hrow
    exact congrArg Except.ok hrow
  case ctrlSABME pf => exact congrArg Except.ok (decodeCtrl_uByte 3 3 pf)
  case ctrlSABM pf => exact congrArg Except.ok (decodeCtrl_uByte 1 3 pf)
  case ctrlDISC pf => exact congrArg Except.ok (decodeCtrl_uByte 2 0 pf)
  case ctrlDM pf => exact congrArg Except.ok (decodeCtrl_uByte 0 3 pf)
  case ctrlUA pf => exact congrArg Except.ok (decodeCtrl_uByte 3 0 pf)
  case ctrlFRMR pf => exact congrArg Except.ok (decodeCtrl_uByte 4 1 pf)
  case ctrlUI pf => exact congrArg Except.ok (decodeCtrl_uByte 0 0 pf)
  case ctrlXID pf => exact congrArg Except.ok (decodeCtrl_uByte 5 3 pf)
  case ctrlTEST pf => exact congrArg Except.ok (decodeCtrl_uByte 7 0 pf)
  case ctrlUUnknown mHi pf mLo =>
    have hrow := decodeCtrl_uByte mHi mLo pf
    rw [eq_of_beq hwf] at hrow
    exact congrArg Except.ok hrow
  case rxIdleFend => simp [encode, decode, decodeRx, classOf_fend]
  case rxIdleOther b => exact congrArg Except.ok (decodeRx_idle_other (bne_iff_ne.mp hwf))
  case rxInFrameFend => simp [encode, decode, decodeRx, classOf_fend]
  case rxInFrameFesc => simp [encode, decode, decodeRx, classOf_fesc hd]
  case rxInFrameTfend => simp [encode, decode, decodeRx, classOf_tfend hd]
  case rxInFrameTfesc => simp [encode, decode, decodeRx, classOf_tfesc hd]
  case rxInFrameOther b => simp [encode, decode, decodeRx, eq_of_beq hwf]

/-- Settles O6: a host operation is reserved or a word of R80's table, and the two other formats decode every byte. -/
theorem encodeOfDecode : Obligations.EncodeOfDecode := by
  intro c w i h
  cases w with
  | hostop w =>
    obtain ⟨hr, rfl⟩ | ⟨-, hwf, he⟩ := decodeHost_eq_ok h
    · exact ⟨hr, fun hi => by cases hi⟩
    · exact ⟨hwf, fun _ => he⟩
  | ctrl8 b => cases h; exact ⟨wellFormed_decodeCtrl c b, fun _ => encode_decodeCtrl c b⟩
  | rxClass st b => cases h; exact ⟨wellFormed_decodeRx c st b, fun _ => encode_decodeRx c st b⟩

/-- Settles O4: a reserved code decodes to RESERVED_OP, which is refused; another word decodes exactly when its operands
have the right shape. -/
theorem refusedWords : Obligations.RefusedWords := by
  refine ⟨fun s w hd hw => ⟨fun hres => ?_, fun hres hshape => ?_⟩, fun c w hshape => ?_, fun _ _ => rfl⟩
  · exact StepRunsDecodedOperation.stepRunsDecodedOperation s w (.reservedOp w.code) hd hw
      (decodeHost_reserved ((isReserved_iff w.code).mpr hres))
  · exact step_of_decode_error hd hw (decodeHost_of_wrongShape hres hshape)
  · obtain ⟨i, hi⟩ := exists_isHostWordOf hshape
    have hdec := hi.decodeHost_eq
    obtain ⟨hres, -, -⟩ := hi
    exact ⟨i, hdec, hres⟩

/-- Settles O1: the eight words evaluated by the decoder, without the encoder. -/
theorem specWordsDecode : Obligations.SpecWordsDecode :=
  ⟨rfl, rfl, rfl, rfl, rfl, rfl, rfl, rfl⟩

end Sys2Proof.Proofs.Encoding
end

section
/-! PROOF. The pseudo-operations of a host (30_encoding.md R83): RXSTREAM does to the framer what one read of the same
bytes does, and SENDTEST is BUILD and then TXFRAME. -/

namespace Sys2Proof.Machine

/-- `s'` agrees with `s` on what a received byte reads and writes: the framer and the history. -/
structure SameReception (s s' : State) : Prop where
  ev : s'.ev = s.ev
  rx : s'.rx = s.rx
  esc : s'.esc = s.esc
  buf : s'.buf = s.buf

theorem SameReception.trans {s s' s'' : State} (h : SameReception s s') (h' : SameReception s' s'') :
    SameReception s s'' :=
  ⟨h'.ev.trans h.ev, h'.rx.trans h.rx, h'.esc.trans h.esc, h'.buf.trans h.buf⟩

/-- R115: what a stream does to the framer and the history depends on nothing else. -/
theorem sameReception_rxBytes {s s' : State} (h : SameReception s s') (c : Config) (bs : List Byte) :
    SameReception (rxBytes c bs s) (rxBytes c bs s') := by
  obtain ⟨hev, hrx, hesc, hbuf⟩ := h
  obtain ⟨rx, esc, buf, es, hw⟩ := rxBytes_writes c bs s.rx s.esc s.buf
  rw [hw s rfl rfl rfl, hw s' hrx hesc hbuf]
  exact ⟨by simp [hev], rfl, rfl, rfl⟩

theorem exec_rxByte_of_open {s : State} (hf : s.fatal = false) (ho : s.isOpen = true) (b : Byte) :
    exec (.rxByte b) s = .next (finish (.ok .unit) (rxBody s.cfg b s)) :=
  whenOpen_of_open hf ho _

theorem exec_rxPoll_data {s : State} {bs : List Byte} {rest : List ReadAnswer} (hf : s.fatal = false)
    (ho : s.isOpen = true) (h1 : 1 ≤ bs.length) (h2 : bs.length ≤ s.cfg.maxRead) :
    exec .rxPoll { s with reads := .data bs :: rest } =
      .next (finish (.ok .unit) (rxBytes s.cfg bs { s with reads := rest })) := by
  have hne : bs ≠ [] := List.ne_nil_of_length_pos h1
  simp [exec, execRxPoll, whenOpen_of_open, hf, ho, readAnswer, takeRead, legalRead_data hne h2, pollAnswer, endOk]

/-- R83: RXSTREAM completes with the stream received and one operation issued for each byte. -/
theorem runInstrs_rxStream {s : State} (hf : s.fatal = false) (ho : s.isOpen = true) (bs : List Byte) :
    ∃ u, runInstrs (rxStream bs) s = .next u ∧ u.opi = s.opi + bs.length ∧ SameReception (rxBytes s.cfg bs s) u := by
  induction bs generalizing s with
  | nil => exact ⟨s, rfl, rfl, rfl, rfl, rfl, rfl⟩
  | cons b bs ih =>
    obtain ⟨hopi, hfatal, -, hcfg⟩ : SameRun s (rxBody s.cfg b s) := sameRun_rxBytes s.cfg [b] s
    obtain ⟨u, hu, huopi, hrec⟩ := ih (s := finish (.ok .unit) (rxBody s.cfg b s)) (hfatal.trans hf) (by simp [ho])
    rw [finish_cfg, hcfg] at hrec
    have hfinish : SameReception (rxBody s.cfg b s) (finish (.ok .unit) (rxBody s.cfg b s)) := ⟨rfl, rfl, rfl, rfl⟩
    refine ⟨u, ?_, ?_, ?_⟩
    · simpa [rxStream, runInstrs, exec_rxByte_of_open hf ho] using hu
    · rw [huopi, finish_opi, hopi, List.length_cons]
      omega
    · rw [rxBytes_cons]
      exact (sameReception_rxBytes hfinish s.cfg bs).trans hrec

theorem sendTest_of_built {dst src : Text} {lit p : List Byte} {total : Nat} {s t : State}
    (h : exec (.build dst src lit total) s = .next t) (hp : t.out = some (.ok (.bytes p))) :
    sendTest dst src lit total s = exec (.txFrame s.cfg.dataTag p) t := by
  simp only [sendTest, h, hp]

theorem sendTest_of_err {dst src : Text} {lit : List Byte} {total : Nat} {s t : State} {e : CodecError}
    (h : exec (.build dst src lit total) s = .next t) (he : t.out = some (.err e)) :
    sendTest dst src lit total s = .next t := by
  simp only [sendTest, h, he]

end Sys2Proof.Machine

namespace Sys2Proof.Proofs.PseudoOperations

open Sys2Proof.Machine

/-- Settles O24: RXSTREAM and RXPOLL both pass the bytes to `rxBytes`, which reads the framer and the history alone. -/
theorem rxStreamIsRxPoll : Obligations.RxStreamIsRxPoll := by
  intro s bs rest hf ho
  obtain ⟨u, hu, hopi, hrec⟩ := runInstrs_rxStream hf ho bs
  refine ⟨u, hu, hopi, fun h1 h2 => ⟨_, exec_rxPoll_data hf ho h1 h2, ?_⟩⟩
  have hpoll : SameReception { s with reads := rest } s := ⟨rfl, rfl, rfl, rfl⟩
  obtain ⟨hev, hrx, hesc, hbuf⟩ := (sameReception_rxBytes hpoll s.cfg bs).trans hrec
  exact ⟨hev, hrx, hesc, hbuf⟩

/-- Settles O47: SENDTEST continues by the outcome of BUILD. -/
theorem sendTestExpands : Obligations.SendTestExpands :=
  fun _ _ _ _ _ _ h => ⟨fun _ hp => sendTest_of_built h hp, sendTest_of_err h⟩

end Sys2Proof.Proofs.PseudoOperations
end

section
/-! PROOF. Received bytes (40_framer.md R100 to R109): RXBYTE and the row it decodes to both run `rxBody`, so each rule
is said once about `rxBody` and read off for the two instructions, as an effect and as a frame. -/

namespace Sys2Proof.Machine

/-! ## Byte classes (R101) -/

theorem distinct_iff (c : Config) : c.distinct = true ↔ [c.fend, c.fesc, c.tfend, c.tfesc].Nodup := by
  simp [Config.distinct, and_assoc]

theorem classOf_eq_fesc {c : Config} (hd : c.distinct = true) {b : Byte} : classOf c b = .fesc ↔ b = c.fesc :=
  ⟨fun h => by simpa [h] using classOf_cases c b, fun h => h ▸ classOf_fesc hd⟩

theorem classOf_eq_tfend {c : Config} (hd : c.distinct = true) {b : Byte} : classOf c b = .tfend ↔ b = c.tfend :=
  ⟨fun h => by simpa [h] using classOf_cases c b, fun h => h ▸ classOf_tfend hd⟩

theorem classOf_eq_tfesc {c : Config} (hd : c.distinct = true) {b : Byte} : classOf c b = .tfesc ↔ b = c.tfesc :=
  ⟨fun h => by simpa [h] using classOf_cases c b, fun h => h ▸ classOf_tfesc hd⟩

theorem classOf_eq_other {c : Config} (hd : c.distinct = true) {b : Byte} :
    classOf c b = .other ↔ b ≠ c.fend ∧ b ≠ c.fesc ∧ b ≠ c.tfend ∧ b ≠ c.tfesc := by
  simp only [ne_eq, ← classOf_eq_fend (c := c), ← classOf_eq_fesc hd, ← classOf_eq_tfend hd, ← classOf_eq_tfesc hd]
  cases classOf c b <;> simp

/-! ## RXBYTE and its rows -/

theorem inState_same {s : State} {st : RxState} (h : s.rx = st) (s' : State) :
    inState st s s' = whenOpen s (endOk .unit s') := by
  rw [inState, if_pos h]

/-- R100, R101: the row of a byte in the framer's state runs the body of RXBYTE under its preconditions. -/
theorem exec_decodeRx (b : Byte) (s : State) :
    exec (decodeRx s.cfg s.rx b) s = whenOpen s (endOk .unit (rxBody s.cfg b s)) := by
  cases hr : s.rx with
  | idle =>
    by_cases hc : classOf s.cfg b = .fend
    · simp only [decodeRx, hc]
      rw [classOf_eq_fend.mp hc, rxBody_idle_fend hr]
      exact inState_same hr _
    · rw [decodeRx_idle_other hc, rxBody_idle_other hr (fun e => hc (classOf_eq_fend.mpr e))]
      exact (if_neg hc).trans (inState_same hr s)
  | inFrame =>
    cases hc : classOf s.cfg b <;> simp only [decodeRx, rxBody, hr, hc]
    case other => exact (if_pos hc).trans (inState_same hr _)
    all_goals exact inState_same hr _

/-- With a session, RXBYTE and the row of its byte both complete with what `rxBody` does. -/
theorem exec_receive_of_open {s : State} {b : Byte} {i row : Instr} (hf : s.fatal = false) (ho : s.isOpen = true)
    (hrow : decodeRx s.cfg s.rx b = row) (hi : i ∈ [Instr.rxByte b, row]) :
    exec i s = .next (finish (.ok .unit) (rxBody s.cfg b s)) := by
  subst hrow
  simp only [List.mem_cons, List.not_mem_nil, or_false] at hi
  obtain rfl | rfl := hi
  · exact exec_rxByte_of_open hf ho b
  · exact (exec_decodeRx b s).trans (whenOpen_of_open hf ho _)

theorem afterStore_eq (v : Byte) (s : State) :
    afterStore v s = finish (.ok .unit) (bufAppend s.cfg v (setEsc false s)) := by
  by_cases h : s.buf.length = s.cfg.cap
  · rw [afterStore, if_pos h, bufAppend_full (s := setEsc false s) h]
    rfl
  · rw [afterStore, if_neg h, bufAppend_room (s := setEsc false s) h]
    rfl

/-! ## The frame of a received byte, clause by clause -/

/-- Discarded in `Idle`, or the escape byte in a frame. -/
def NotStored (c : Config) (st : RxState) (b : Byte) : Prop :=
  (st = .idle ∧ classOf c b ≠ .fend) ∨ (st = .inFrame ∧ classOf c b = .fesc)

/-- A byte that is put into the frame buffer. -/
def IsStored (c : Config) (st : RxState) (b : Byte) : Prop :=
  st = .inFrame ∧ classOf c b ≠ .fend ∧ classOf c b ≠ .fesc

theorem rxBody_buf_of_notStored {c : Config} {b : Byte} {s : State} (h : NotStored c s.rx b) :
    (rxBody c b s).buf = s.buf := by
  obtain ⟨hr, hb⟩ | ⟨hr, hb⟩ := h
  · rw [rxBody_idle_other hr (mt classOf_eq_fend.mpr hb)]
  · simp [rxBody, hr, hb, escapeByte]

theorem rxBody_fend_buf (c : Config) (s : State) : (rxBody c c.fend s).buf = [] := by
  cases hr : s.rx with
  | idle => rw [rxBody_idle_fend hr, startFrame_buf]
  | inFrame =>
    rw [rxBody_fend hr]
    obtain ⟨-, h⟩ | ⟨-, h⟩ := endFrame_cases c s <;> rw [h, toIdle_buf]

theorem rxBody_of_stored {c : Config} {b : Byte} {s : State} (h : IsStored c s.rx b) :
    ∃ v, rxBody c b s = bufAppend c v (setEsc false s) := by
  obtain ⟨hr, hfend, hfesc⟩ := h
  obtain ⟨h, -⟩ | ⟨h, -⟩ | ⟨-, h, -⟩ | ⟨-, h, -⟩ | ⟨-, h⟩ := rxBody_cases c b s
  · cases hr.symm.trans h
  · cases hr.symm.trans h
  · exact absurd h hfend
  · exact absurd h hfesc
  · exact h

section
variable {c : Config} {st : RxState} {b : Byte} {i : Instr} (hi : i = .rxByte b ∨ i = decodeRx c st b)
include hi

theorem notStored_of_instr (hd : c.distinct = true)
    (h : i = .rxInFrameFesc ∨ (∃ b, i = .rxIdleOther b) ∨ (i = .rxByte c.fesc ∧ st = .inFrame) ∨
      (∃ b, i = .rxByte b ∧ b ≠ c.fend ∧ st = .idle)) : NotStored c st b := by
  obtain rfl | rfl := hi
  · simp only [Instr.rxByte.injEq, reduceCtorEq, exists_false, false_or, exists_eq_left'] at h
    obtain ⟨rfl, hst⟩ | ⟨hb, hst⟩ := h
    · exact .inr ⟨hst, classOf_fesc hd⟩
    · exact .inl ⟨hst, mt classOf_eq_fend.mp hb⟩
  · cases st <;> cases hc : classOf c b <;> simp_all [decodeRx, NotStored]

theorem eq_fend_of_instr (h : i = .rxIdleFend ∨ i = .rxInFrameFend ∨ i = .rxByte c.fend) : b = c.fend := by
  obtain rfl | rfl := hi
  · simpa using h
  · rw [← classOf_eq_fend]
    cases st <;> cases hc : classOf c b <;> simp_all [decodeRx]

theorem isStored_of_instr (hd : c.distinct = true)
    (h : i = .rxInFrameTfend ∨ i = .rxInFrameTfesc ∨ (∃ b, i = .rxInFrameOther b) ∨
      (∃ b, i = .rxByte b ∧ b ≠ c.fend ∧ b ≠ c.fesc ∧ st = .inFrame)) : IsStored c st b := by
  obtain rfl | rfl := hi
  · simp only [Instr.rxByte.injEq, reduceCtorEq, exists_false, false_or, exists_eq_left'] at h
    obtain ⟨hfend, hfesc, hst⟩ := h
    exact ⟨hst, mt classOf_eq_fend.mp hfend, mt (classOf_eq_fesc hd).mp hfesc⟩
  · cases st <;> cases hc : classOf c b <;> simp_all [decodeRx, IsStored]

end

end Sys2Proof.Machine

namespace Sys2Proof.Proofs.Receive

open Sys2Proof.Machine

/-- Settles O18: RXBYTE is defined by the body that the row runs. -/
theorem rxByteRunsItsRow : Obligations.RxByteRunsItsRow :=
  fun b s => (exec_decodeRx b s).symm

/-- Settles O54: the byte behind the instruction is discarded, an escape, a delimiter or stored, and `rxBody` has one
effect on the buffer for each. -/
theorem receiveFrame : Obligations.ReceiveFrame := by
  intro i s t hd hrec h
  obtain ⟨-, -, b, hi, rfl⟩ := exec_receive_next hd hrec h
  refine ⟨?_, fun hkeep a => ?_, fun hdelim a => ?_, fun hstore => ?_⟩
  · obtain ⟨_, _, _, _, hw⟩ := rxBody_writes s.cfg b s.rx s.esc s.buf
    rw [hw s rfl rfl rfl]
    exact ⟨rfl, rfl, rfl, rfl, rfl, rfl, rfl, rfl⟩
  · exact congrArg (·[a]?) (rxBody_buf_of_notStored (notStored_of_instr hi hd hkeep))
  · obtain rfl := eq_fend_of_instr hi hdelim
    exact congrArg (·[a]?) (rxBody_fend_buf s.cfg s)
  · obtain ⟨v, hv⟩ := rxBody_of_stored (isStored_of_instr hi hd hstore)
    rw [hv]
    refine ⟨fun hroom a ha => ?_, fun hroom => ⟨v, ?_⟩, fun hfull a => ?_⟩
    · exact bufRead_bufAppend_other (s := setEsc false s) hroom v ha
    · exact bufRead_bufAppend_same (s := setEsc false s) hroom v
    · rw [bufAppend_full (s := setEsc false s) hfull]
      rfl

/-- Settles O7: the classes are those of R101 because the constants are distinct. -/
theorem byteClasses : Obligations.ByteClasses :=
  ⟨hw_distinct, distinct_iff, fun _ h => step_of_badConfig h, fun _ _ hd =>
    ⟨classOf_eq_fend, classOf_eq_fesc hd, classOf_eq_tfend hd, classOf_eq_tfesc hd, classOf_eq_other hd⟩⟩

/-- Settles O12: the delimiter starts a frame in `Idle` and ends one in a frame. -/
theorem rxDelimiter : Obligations.RxDelimiter := by
  intro s hf ho
  refine ⟨fun hr i hi => ?_, fun hr hb i hi => ?_, fun hr hb i hi => ?_⟩ <;>
    rw [exec_receive_of_open hf ho (by simp [decodeRx, hr, classOf_fend]) hi]
  · rw [rxBody_idle_fend hr]
    rfl
  · rw [rxBody_fend hr, endFrame, if_pos hb]
    rfl
  · rw [rxBody_fend hr, endFrame, if_neg hb]
    simp [finish, toIdle, deliver, emit]

/-- Settles O13: `rxBody` keeps the state. -/
theorem rxIdleDiscards : Obligations.RxIdleDiscards := by
  intro s b hf ho hr hb i hi
  have hrow : decodeRx s.cfg s.rx b = .rxIdleOther b := hr ▸ decodeRx_idle_other (mt classOf_eq_fend.mp hb)
  rw [exec_receive_of_open hf ho hrow hi, rxBody_idle_other hr hb]
  rfl

/-- Settles O14: `rxBody` sets the escape flag. -/
theorem rxEscape : Obligations.RxEscape := by
  intro s hd hf ho hr i hi
  rw [exec_receive_of_open hf ho (by simp [decodeRx, hr, classOf_fesc hd]) hi, rxBody_fesc hd hr]
  rfl

/-- Settles O15: `rxBody` clears the escape flag and appends the byte that the class and the flag give. -/
theorem rxStores : Obligations.RxStores := by
  intro s hd hf ho hr
  refine ⟨fun i hi => ?_, fun i hi => ?_, fun b hfend hfesc htfend htfesc i hi => ?_⟩
  · rw [exec_receive_of_open hf ho (by simp [decodeRx, hr, classOf_tfend hd]) hi, rxBody_tfend hd hr, afterStore_eq]
    rfl
  · rw [exec_receive_of_open hf ho (by simp [decodeRx, hr, classOf_tfesc hd]) hi, rxBody_tfesc hd hr, afterStore_eq]
    rfl
  · have hc := (classOf_eq_other hd).mpr ⟨hfend, hfesc, htfend, htfesc⟩
    rw [exec_receive_of_open hf ho (by simp [decodeRx, hr, hc]) hi, rxBody_data hr hc, afterStore_eq]
    rfl

end Sys2Proof.Proofs.Receive
end

section
/-! PROOF. Transmit (40_framer.md R110, R111, R114) and the framing round trip (R113), which rests on one fact: the
escaped form of a byte, received in a frame, appends that byte. -/

namespace Sys2Proof.Machine

/-! ## The escaped bytes (R62, R114) -/

/-- R110: the bytes between the tag and the trailing delimiter. -/
def escaped (c : Config) (p : List Byte) : List Byte := (p.map (escape c)).flatten

theorem escaped_cons (c : Config) (b : Byte) (p : List Byte) :
    escaped c (b :: p) = escape c b ++ escaped c p := by
  simp [escaped]

theorem txEncode_eq (c : Config) (tag : Byte) (p : List Byte) :
    txEncode c tag p = c.fend :: tag :: (escaped c p ++ [c.fend]) := by
  simp [txEncode, escaped]

/-- The three forms of an escaped byte. -/
theorem escape_cases (c : Config) (b : Byte) :
    (b = c.fend ∧ escape c b = [c.fesc, c.tfend]) ∨ (b = c.fesc ∧ escape c b = [c.fesc, c.tfesc]) ∨
      (b ≠ c.fend ∧ b ≠ c.fesc ∧ escape c b = [b]) := by
  unfold escape
  split_ifs <;> simp [*]

theorem escape_plain {c : Config} {b : Byte} (hfend : b ≠ c.fend) (hfesc : b ≠ c.fesc) : escape c b = [b] := by
  simp [escape, hfend, hfesc]

theorem escape_pair_or_plain (c : Config) (b : Byte) :
    (∃ v, (v = c.tfend ∨ v = c.tfesc) ∧ escape c b = [c.fesc, v]) ∨ (b ≠ c.fend ∧ b ≠ c.fesc ∧ escape c b = [b]) := by
  obtain ⟨-, e⟩ | ⟨-, e⟩ | h := escape_cases c b
  · exact .inl ⟨_, .inl rfl, e⟩
  · exact .inl ⟨_, .inr rfl, e⟩
  · exact .inr h

theorem distinct_ne {c : Config} (hd : c.distinct = true) :
    c.fend ≠ c.fesc ∧ c.fend ≠ c.tfend ∧ c.fend ≠ c.tfesc ∧ c.fesc ≠ c.tfend ∧ c.fesc ≠ c.tfesc := by
  simp_all [Config.distinct]

theorem fend_notMem_escaped {c : Config} (hd : c.distinct = true) (p : List Byte) : c.fend ∉ escaped c p := by
  obtain ⟨h1, h2, h3, -, -⟩ := distinct_ne hd
  induction p with
  | nil => simp [escaped]
  | cons b p ih =>
    obtain ⟨v, rfl | rfl, e⟩ | ⟨hb, -, e⟩ := escape_pair_or_plain c b <;> rw [escaped_cons, e]
    · simp [h1, h2, ih]
    · simp [h1, h3, ih]
    · simp [hb.symm, ih]

theorem escaped_pairs {c : Config} (hd : c.distinct = true) (p : List Byte) (i : Nat)
    (hi : (escaped c p)[i]? = some c.fesc) :
    (escaped c p)[i + 1]? = some c.tfend ∨ (escaped c p)[i + 1]? = some c.tfesc := by
  obtain ⟨-, -, -, h4, h5⟩ := distinct_ne hd
  induction p generalizing i with
  | nil => simp [escaped] at hi
  | cons b p ih =>
    obtain ⟨v, hv, e⟩ | ⟨-, hb, e⟩ := escape_pair_or_plain c b <;> rw [escaped_cons, e] at hi ⊢
    · match i with
      | 0 => exact hv.imp (congrArg some) (congrArg some)
      | 1 =>
        obtain rfl : v = c.fesc := Option.some.inj hi
        exact (hv.elim h4 h5).elim
      | i + 2 => exact ih i hi
    · match i with
      | 0 => exact absurd (Option.some.inj hi) hb
      | i + 1 => exact ih i hi

/-! ## TXFRAME with an injected answer (R111) -/

theorem exec_txFrame_injected {s : State} {w : WriteAnswer} {rest : List WriteAnswer} (hf : s.fatal = false)
    (ho : s.isOpen = true) (hw : s.writes = w :: rest) (tag : Byte) (p : List Byte) :
    exec (.txFrame tag p) s =
      txWrite (txEncode s.cfg tag p) (legalWrite (txEncode s.cfg tag p).length w) { s with writes := rest } := by
  simp [exec, execTxFrame, whenOpen_of_open hf ho, writeAnswer, takeWrite, hw]

/-! ## The escaped bytes received (R113) -/

theorem rxBytes_idle {c : Config} {bs : List Byte} {s : State} (h : c.fend ∉ bs) (hr : s.rx = .idle) :
    rxBytes c bs s = s := by
  induction bs with
  | nil => rfl
  | cons b bs ih =>
    obtain ⟨hb, hbs⟩ := not_or.mp (List.mem_cons.not.mp h)
    rw [rxBytes_cons, rxBody_idle_other hr (Ne.symm hb), ih hbs]

/-- In a frame with no escape pending, a byte that is neither the delimiter nor the escape byte is stored as it is. -/
theorem rxBody_plain {c : Config} {s : State} (hd : c.distinct = true) (hr : s.rx = .inFrame) (he : s.esc = false)
    {b : Byte} (hfend : b ≠ c.fend) (hfesc : b ≠ c.fesc) : rxBody c b s = bufAppend c b s := by
  have hs : setEsc false s = s := by simp [setEsc, ← he]
  obtain ⟨-, h⟩ | ⟨-, h⟩ | ⟨-, rfl⟩ | ⟨-, rfl⟩ | hc := classOf_cases c b
  · exact absurd h hfend
  · exact absurd h hfesc
  · simp [rxBody_tfend hd hr, transposedFend, he, hs]
  · simp [rxBody_tfesc hd hr, transposedFesc, he, hs]
  · simp [rxBody_data hr hc, dataByte, hs]

/-- The escaped form of a byte appends the byte. -/
theorem rxBytes_escape {c : Config} {s : State} (hd : c.distinct = true) (hr : s.rx = .inFrame) (he : s.esc = false)
    (b : Byte) : rxBytes c (escape c b) s = bufAppend c b s := by
  have hs : setEsc false (setEsc true s) = s := by simp [setEsc, ← he]
  have hr' : (escapeByte s).rx = .inFrame := hr
  obtain ⟨rfl, e⟩ | ⟨rfl, e⟩ | ⟨hfend, hfesc, e⟩ := escape_cases c b <;> rw [e]
  · simp only [rxBytes_cons, rxBytes_nil, rxBody_fesc hd hr, rxBody_tfend hd hr', transposedFend]
    simp [escapeByte, hs]
  · simp only [rxBytes_cons, rxBytes_nil, rxBody_fesc hd hr, rxBody_tfesc hd hr', transposedFesc]
    simp [escapeByte, hs]
  · exact rxBody_plain hd hr he hfend hfesc

/-- Escaped bytes that fit are appended. -/
theorem rxBytes_escaped_room {c : Config} {s : State} {p : List Byte} (hd : c.distinct = true) (hr : s.rx = .inFrame)
    (he : s.esc = false) (h : s.buf.length + p.length ≤ c.cap) :
    rxBytes c (escaped c p) s = setBuf (s.buf ++ p) s := by
  induction p generalizing s with
  | nil => simp [escaped, rxBytes_nil, setBuf]
  | cons b p ih =>
    simp only [List.length_cons] at h
    rw [escaped_cons, rxBytes_append, rxBytes_escape hd hr he, bufAppend_room (by omega),
      ih (s := setBuf (s.buf ++ [b]) s) hr he (by simp; omega)]
    simp [setBuf]

/-- Escaped bytes that do not fit overflow the frame, and the rest of them is discarded. -/
theorem rxBytes_escaped_full {c : Config} {s : State} {p : List Byte} (hd : c.distinct = true) (hr : s.rx = .inFrame)
    (he : s.esc = false) (hwf : s.buf.length ≤ c.cap) (h : c.cap < s.buf.length + p.length) :
    rxBytes c (escaped c p) s = emit (.log (.malformedFrame .overflow)) (toIdle s) := by
  induction p generalizing s with
  | nil => simp at h; omega
  | cons b p ih =>
    simp only [List.length_cons] at h
    rw [escaped_cons, rxBytes_append, rxBytes_escape hd hr he]
    by_cases hl : s.buf.length = c.cap
    · rw [bufAppend_full hl, rxBytes_idle (fend_notMem_escaped hd p) rfl]
    · rw [bufAppend_room hl, ih (s := setBuf (s.buf ++ [b]) s) hr he (by simp; omega) (by simp; omega)]
      rfl

/-- A tag that is neither the delimiter nor the escape byte is its own escaped form, so tag and payload are received
as one escaped list. -/
theorem txEncode_eq_escaped {c : Config} {tag : Byte} (hfend : tag ≠ c.fend) (hfesc : tag ≠ c.fesc) (p : List Byte) :
    txEncode c tag p = c.fend :: (escaped c (tag :: p) ++ [c.fend]) := by
  simp [txEncode_eq, escaped_cons, escape_plain hfend hfesc]

theorem rxBytes_txEncode_eq {c : Config} {s : State} {tag : Byte} (hr : s.rx = .idle) (hfend : tag ≠ c.fend)
    (hfesc : tag ≠ c.fesc) (p : List Byte) :
    rxBytes c (txEncode c tag p) s = rxBody c c.fend (rxBytes c (escaped c (tag :: p)) (startFrame s)) := by
  rw [txEncode_eq_escaped hfend hfesc, rxBytes_cons, rxBytes_append, rxBody_idle_fend hr, rxBytes_cons, rxBytes_nil]

theorem rxBytes_txEncode_room {c : Config} {s : State} {tag : Byte} {p : List Byte} (hd : c.distinct = true)
    (hr : s.rx = .idle) (hfend : tag ≠ c.fend) (hfesc : tag ≠ c.fesc) (h : p.length + 1 ≤ c.cap) :
    rxBytes c (txEncode c tag p) s = toIdle (deliver c (tag :: p) s) := by
  have hroom := rxBytes_escaped_room (s := startFrame s) (p := tag :: p) hd rfl rfl (by simpa using h)
  rw [rxBytes_txEncode_eq hr hfend hfesc, hroom, rxBody_fend rfl]
  rfl

theorem rxBytes_txEncode_full {c : Config} {s : State} {tag : Byte} {p : List Byte} (hd : c.distinct = true)
    (hr : s.rx = .idle) (hfend : tag ≠ c.fend) (hfesc : tag ≠ c.fesc) (h : c.cap < p.length + 1) :
    rxBytes c (txEncode c tag p) s = startFrame (emit (.log (.malformedFrame .overflow)) s) := by
  have hfull := rxBytes_escaped_full (s := startFrame s) (p := tag :: p) hd rfl rfl (Nat.zero_le _) (by simpa using h)
  rw [rxBytes_txEncode_eq hr hfend hfesc, hfull, rxBody_idle_fend rfl]
  rfl

end Sys2Proof.Machine

namespace Sys2Proof.Proofs.Framing

open Sys2Proof.Machine

/-- Settles O28: the three answers to the write of the encoded bytes. -/
theorem txFrameWrites : Obligations.TxFrameWrites := by
  intro s tag p w rest hf ho hw bytes hbytes
  obtain rfl : bytes = txEncode s.cfg tag p := hbytes
  rw [exec_txFrame_injected hf ho hw]
  refine ⟨fun h => ?_, fun k h hk => ?_, fun h => ?_⟩ <;> subst h
  · simp [legalWrite, txWrite, endOk, finish, emit]
  · simp [legalWrite_written hk.le, txWrite, hk.ne, raiseFatal, finish, setFatal, emit]
  · simp [legalWrite, txWrite, raiseFatal, finish, setFatal, emit]

/-- Settles O29: no delimiter is left and each escape byte starts a pair, byte by byte of the payload. -/
theorem escapeCorrect : Obligations.EscapeCorrect := by
  intro c tag p hd middle hmiddle
  obtain rfl : middle = escaped c p := by simp [hmiddle, txEncode_eq]
  exact ⟨fend_notMem_escaped hd p, escaped_pairs hd p⟩

/-- Settles O30: RXSTREAM receives the encoded bytes, which leave either the delivered frame or the overflow. -/
theorem framingRoundTrip : Obligations.FramingRoundTrip := by
  intro s tag p hd hf ho hr hfend hfesc
  obtain ⟨u, hu, -, hev, hrx, hesc, hbuf⟩ := runInstrs_rxStream hf ho (txEncode s.cfg tag p)
  refine ⟨u, hu, fun hroom => ?_, fun hfull => ?_⟩
  · have hrec := rxBytes_txEncode_room hd hr hfend hfesc hroom
    rw [hev, hrx, hesc, hbuf, hrec]
    exact ⟨rfl, rfl, rfl, by simp [deliver]⟩
  · rw [hev, rxBytes_txEncode_full hd hr hfend hfesc hfull]
    rfl

end Sys2Proof.Proofs.Framing
end

section
/-! PROOF. The split of a stream into reads (40_framer.md R115): one RXPOLL for each read receives the reads' bytes in
order, and nothing of where one read ends is left. -/

namespace Sys2Proof.Machine

/-- The bytes of the first read come first. -/
theorem readBytes_cons {a : ReadAnswer} {rest : List ReadAnswer} {stream : List Byte}
    (h : readBytes (a :: rest) = some stream) :
    ∃ bs tl, readBytes [a] = some bs ∧ readBytes rest = some tl ∧ stream = bs ++ tl := by
  cases a with
  | data bs =>
    obtain ⟨tl, htl, e⟩ := Option.map_eq_some_iff.mp h
    exact ⟨bs, tl, by simp [readBytes], htl, e.symm⟩
  | empty => exact ⟨[], stream, rfl, h, rfl⟩
  | readError => cases h

/-- A poll whose read does not fail completes with the bytes of the read received. -/
theorem exec_rxPoll_bytes {s : State} {a : ReadAnswer} {rest : List ReadAnswer} {bs : List Byte}
    (hf : s.fatal = false) (ho : s.isOpen = true) (hreads : s.reads = a :: rest) (ha : ReadAllowed s.cfg a)
    (hbs : readBytes [a] = some bs) :
    exec .rxPoll s = .next (finish (.ok .unit) (rxBytes s.cfg bs { s with reads := rest })) := by
  have hs : s = { s with reads := a :: rest } := by simp [← hreads]
  cases a with
  | data ds =>
    obtain rfl : ds = bs := by simpa [readBytes] using hbs
    rw [hs]
    obtain ⟨h1, h2⟩ := ha
    exact exec_rxPoll_data hf ho h1 h2
  | empty =>
    cases hbs
    simp [exec, execRxPoll, whenOpen_of_open hf ho, readAnswer, takeRead, hreads, legalRead, pollAnswer, endOk,
      rxBytes_nil]
  | readError => cases hbs

/-- A poll whose read does not fail completes, takes that read and no other, and receives its bytes. -/
theorem exec_rxPoll_receives {s : State} {a : ReadAnswer} {rest : List ReadAnswer} {bs : List Byte}
    (hf : s.fatal = false) (ho : s.isOpen = true) (hreads : s.reads = a :: rest) (ha : ReadAllowed s.cfg a)
    (hbs : readBytes [a] = some bs) :
    ∃ u, exec .rxPoll s = .next u ∧ u.fatal = false ∧ u.isOpen = true ∧ u.cfg = s.cfg ∧ u.reads = rest ∧
      SameReception (rxBytes s.cfg bs s) u := by
  obtain ⟨rx, esc, buf, es, hw⟩ := rxBytes_writes s.cfg bs s.rx s.esc s.buf
  refine ⟨_, exec_rxPoll_bytes hf ho hreads ha hbs, ?_⟩
  rw [hw s rfl rfl rfl, hw { s with reads := rest } rfl rfl rfl]
  exact ⟨hf, ho, rfl, rfl, rfl, rfl, rfl, rfl⟩

/-- R115: one poll for each read receives the stream and takes every read, whatever the reads' boundaries. -/
theorem runInstrs_rxPolls {as : List ReadAnswer} {s : State} {stream : List Byte} (hf : s.fatal = false)
    (ho : s.isOpen = true) (hreads : s.reads = as) (hallowed : ∀ a ∈ as, ReadAllowed s.cfg a)
    (hstream : readBytes as = some stream) :
    ∃ t, runInstrs (List.replicate as.length .rxPoll) s = .next t ∧ t.reads = [] ∧
      SameReception (rxBytes s.cfg stream s) t := by
  induction as generalizing s stream with
  | nil => cases hstream; exact ⟨s, rfl, hreads, rfl, rfl, rfl, rfl⟩
  | cons a rest ih =>
    obtain ⟨bs, tl, hbs, htl, rfl⟩ := readBytes_cons hstream
    obtain ⟨ha, hrest⟩ := List.forall_mem_cons.mp hallowed
    obtain ⟨u, hu, huf, huo, hucfg, hureads, hurec⟩ := exec_rxPoll_receives hf ho hreads ha hbs
    obtain ⟨t, ht, htreads, htrec⟩ := ih huf huo hureads (hucfg ▸ hrest) htl
    refine ⟨t, ?_, htreads, ?_⟩
    · simpa [List.replicate_succ, runInstrs, hu] using ht
    · rw [rxBytes_append]
      exact (sameReception_rxBytes hurec s.cfg tl).trans (hucfg ▸ htrec)

end Sys2Proof.Machine

namespace Sys2Proof.Proofs.StreamSplit

open Sys2Proof.Machine

/-- Settles O23: both ways receive the same stream, and `rxBytes` reads neither the reads left nor their boundaries. -/
theorem streamSplit : Obligations.StreamSplit := by
  intro s as bs stream hf ho hallowed has hbs
  obtain ⟨hallowedAs, hallowedBs⟩ := List.forall_mem_append.mp hallowed
  obtain ⟨t, ht, htreads, htrec⟩ := runInstrs_rxPolls (s := { s with reads := as }) hf ho rfl hallowedAs has
  obtain ⟨u, hu, hureads, hurec⟩ := runInstrs_rxPolls (s := { s with reads := bs }) hf ho rfl hallowedBs hbs
  obtain ⟨hev, hrx, hesc, hbuf⟩ := sameReception_rxBytes (s := { s with reads := as }) (s' := { s with reads := bs })
    ⟨rfl, rfl, rfl, rfl⟩ s.cfg stream
  exact ⟨t, u, ht, hu, hurec.ev.trans (hev.trans htrec.ev.symm), hurec.rx.trans (hrx.trans htrec.rx.symm),
    hurec.esc.trans (hesc.trans htrec.esc.symm), hurec.buf.trans (hbuf.trans htrec.buf.symm),
    hureads.trans htreads.symm⟩

end Sys2Proof.Proofs.StreamSplit
end

section
/-! PROOF. The Address Codec (41_address.md R130 to R142). AENC answers the bytes of the callsign portion and the SSID
that the split of the call gives; ADEC reads characters and a last byte, one by one; what AENC wrote there it reads
back. -/

namespace Sys2Proof.Machine

/-! ## The split at the first hyphen (R131, R135) -/

theorem splitCall_of_noHyphen {call : Text} (h : 0x2D ∉ call) : splitCall call = some (call, 0) := by
  rw [splitCall, if_neg (by rwa [List.contains_iff_mem])]

theorem all_isDigit_iff (sfx : Text) : sfx.all isDigit = true ↔ ∀ d ∈ sfx, 0x30 ≤ d ∧ d ≤ 0x39 := by
  simp only [List.all_eq_true, isDigit_iff]

/-- The callsign portion ends before the first hyphen and the suffix is all that follows it. -/
theorem splitCall_at_hyphen {cs : Text} (h : 0x2D ∉ cs) (sfx : Text) :
    splitCall (cs ++ 0x2D :: sfx) = if GoodSuffix sfx then some (cs, value sfx) else none := by
  have hcs : ∀ ch ∈ cs, (ch != 0x2D) = true := fun ch hch => bne_iff_ne.mpr (ne_of_mem_of_not_mem hch h)
  have htake : (cs ++ 0x2D :: sfx).takeWhile (· != 0x2D) = cs := by
    rw [List.takeWhile_append_of_pos hcs, List.takeWhile_cons_of_neg (by decide), List.append_nil]
  have hdrop : (cs ++ 0x2D :: sfx).dropWhile (· != 0x2D) = 0x2D :: sfx := by
    rw [List.dropWhile_append_of_pos hcs, List.dropWhile_cons_of_neg (by decide)]
  have hbad : (sfx = [] ∨ sfx.all isDigit = false ∨ 15 < value sfx) ↔ ¬ GoodSuffix sfx := by
    rw [GoodSuffix, ← all_isDigit_iff, not_and_or, not_and_or, not_not, Bool.not_eq_true, not_le]
  simp only [splitCall, htake, hdrop, List.tail_cons, hbad, ite_not]
  rw [if_pos (by simp)]

/-! ## AENC -/

theorem encodeAddr_of_split {call cs : Text} {ssid : Nat} (h : splitCall call = some (cs, ssid)) (c : Config)
    (cmd last : Bool) : encodeAddr c call cmd last = some (addressBytes c cs ssid cmd last) := by
  rw [encodeAddr, h]
  rfl

/-- AENC answers the bytes of what the split gives (R132 to R134). -/
theorem exec_aenc_of_split {call cs : Text} {ssid : Nat} {s : State} (hf : s.fatal = false)
    (h : splitCall call = some (cs, ssid)) (cmd last : Bool) :
    exec (.aenc call cmd last) s = .next (finish (.ok (.bytes (addressBytes s.cfg cs ssid cmd last))) s) := by
  simp only [exec, execAenc, whenRunning_of_running hf, encodeAddr_of_split h, endOk]

/-- A bad suffix ends AENC in `InvalidAddress` (R135). -/
theorem exec_aenc_of_badSuffix {call : Text} {s : State} (hf : s.fatal = false) (h : splitCall call = none)
    (cmd last : Bool) : exec (.aenc call cmd last) s = .next (finish (.err .invalidAddress) s) := by
  simp only [exec, execAenc, whenRunning_of_running hf, encodeAddr, h, endErr]

/-! ## ADEC -/

theorem exec_adec_of_length {a : List Byte} {s : State} (hf : s.fatal = false) (h : a.length = s.cfg.addrLen)
    (rep : Bool) :
    exec (.adec a rep) s =
      .next (finish (.ok (.address (decodeAddr s.cfg a rep).1 (decodeAddr s.cfg a rep).2)) s) := by
  simp only [exec, execAdec, if_pos h, whenRunning_of_running hf, endOk]

theorem exec_adec_of_length_ne {a : List Byte} {s : State} (h : a.length ≠ s.cfg.addrLen) (rep : Bool) :
    exec (.adec a rep) s = .refused .badOperand := by
  simp only [exec, execAdec, if_neg h]

/-- R137 to R140: what the characters and the last byte of an address say. -/
theorem decodeAddr_append {c : Config} {chars : List Byte} (h : chars.length = c.callLen) (b7 : Byte) (rep : Bool) :
    decodeAddr c (chars ++ [b7]) rep =
      ((chars.map byteChar).filter (· != 0x20) ++ ssidText (ssidOf b7) ++ (if rep && topBit b7 then [0x2A] else []),
        moreFollows b7) := by
  have hlast : lastByte c (chars ++ [b7]) = b7 := by simp [lastByte, ← h]
  have hcall : callText c (chars ++ [b7]) = (chars.map byteChar).filter (· != 0x20) := by simp [callText, ← h]
  rw [decodeAddr, hlast, hcall]

/-- ADEC of the characters of an address and its last byte. -/
theorem exec_adec_append {chars : List Byte} {s : State} (hf : s.fatal = false) (hs : AddressShape s.cfg)
    (h : chars.length = s.cfg.callLen) (b7 : Byte) (rep : Bool) :
    exec (.adec (chars ++ [b7]) rep) s =
      .next (finish (.ok (.address
        ((chars.map byteChar).filter (· != 0x20) ++ ssidText (ssidOf b7) ++ (if rep && topBit b7 then [0x2A] else []))
        (moreFollows b7))) s) := by
  rw [exec_adec_of_length hf (by simp [h, hs]), decodeAddr_append h]

/-- R138: no suffix exactly when the field of the SSID is 0. -/
theorem ssidText_ssidOf (b7 : Byte) :
    ssidText (ssidOf b7) =
      if ((b7 >>> 1) &&& 0x0F) = 0 then [] else 0x2D :: dec ((b7 >>> 1) &&& 0x0F).toNat := by
  have hzero : ssidOf b7 = 0 ↔ ((b7 >>> 1) &&& 0x0F) = 0 := (BitVec.toNat_eq (y := 0)).symm
  simp only [ssidText, hzero]
  rfl

/-! ## ADEC of what AENC wrote (R142) -/

/-- The three fields of a seventh byte are those it was made of. -/
theorem seventhByte_fields {ssid : Nat} (h : ssid ≤ 15) (cmd last : Bool) :
    ssidOf (seventhByte ssid cmd last) = ssid ∧ topBit (seventhByte ssid cmd last) = cmd ∧
      moreFollows (seventhByte ssid cmd last) = !last := by
  revert ssid cmd last
  decide

/-- A letter or digit fits in seven bits, and is neither the padding nor the hyphen. -/
theorem plainChar_facts {ch : Byte} (h : (0x41 ≤ ch ∧ ch ≤ 0x5A) ∨ (0x30 ≤ ch ∧ ch ≤ 0x39)) :
    byteChar (charByte ch) = ch ∧ ch ≠ 0x20 ∧ ch ≠ 0x2D := by
  revert ch
  decide

theorem padCall_length (c : Config) (cs : Text) : (padCall c cs).length = c.callLen := by
  simp [padCall]

theorem padCall_of_fits {c : Config} {x : Text} (h : x.length ≤ c.callLen) :
    padCall c x = x ++ List.replicate (c.callLen - x.length) 0x20 := by
  rw [padCall, List.take_of_length_le h, Nat.min_eq_right h]

/-- The characters come back, and only the padding is dropped. -/
theorem readBack_padCall {c : Config} {x : Text} (hx : PlainCall c x) :
    (((padCall c x).map charByte).map byteChar).filter (· != 0x20) = x := by
  obtain ⟨-, hlen, hplain⟩ := hx
  have hchars : (x.map charByte).map byteChar = x := by
    rw [List.map_map]
    exact (List.map_congr_left fun ch hch => (plainChar_facts (hplain ch hch)).1).trans (List.map_id x)
  have hkept : x.filter (· != 0x20) = x :=
    List.filter_eq_self.mpr fun ch hch => bne_iff_ne.mpr (plainChar_facts (hplain ch hch)).2.1
  have hpad (k : Nat) : (((List.replicate k 0x20).map charByte).map byteChar).filter (· != 0x20) = [] := by
    simp only [List.map_replicate]
    exact List.filter_replicate_of_neg (by decide)
  rw [padCall_of_fits hlen, List.map_append, List.map_append, List.filter_append, hchars, hkept, hpad, List.append_nil]

/-- The ways of R142 to write the SSID: none for 0, or any digits of its value. -/
theorem splitCall_of_plain {c : Config} {x call : Text} {n : Nat} (hx : PlainCall c x) (hn : n ≤ 15)
    (hcall : (call = x ∧ n = 0) ∨ call = x ++ 0x2D :: dec n ∨
      ∃ sfx, sfx ≠ [] ∧ (∀ d ∈ sfx, 0x30 ≤ d ∧ d ≤ 0x39) ∧ value sfx = n ∧ call = x ++ 0x2D :: sfx) :
    splitCall call = some (x, n) := by
  obtain ⟨-, -, hplain⟩ := hx
  have hhyphen : 0x2D ∉ x := fun hmem =>
    have ⟨_, _, hne⟩ := plainChar_facts (hplain _ hmem)
    hne rfl
  obtain ⟨rfl, rfl⟩ | rfl | ⟨sfx, hne, hdigits, rfl, rfl⟩ := hcall
  · exact splitCall_of_noHyphen hhyphen
  · have hgood : GoodSuffix (dec n) :=
      ⟨dec_ne_nil n, fun d hd => (isDigit_iff d).mp (isDigit_of_mem_dec hd), (value_dec n).symm ▸ hn⟩
    rw [splitCall_at_hyphen hhyphen, if_pos hgood, value_dec]
  · rw [splitCall_at_hyphen hhyphen, if_pos ⟨hne, hdigits, hn⟩]

/-- ADEC of the bytes of a plain callsign reads back what they were made of. -/
theorem exec_adec_addressBytes {x : Text} {n : Nat} {s : State} (hf : s.fatal = false) (hs : AddressShape s.cfg)
    (hx : PlainCall s.cfg x) (hn : n ≤ 15) (cmd last rep : Bool) :
    exec (.adec (addressBytes s.cfg x n cmd last) rep) s =
      .next (finish (.ok (.address (x ++ ssidText n ++ (if rep && cmd then [0x2A] else [])) (!last))) s) := by
  obtain ⟨hssid, htop, hmore⟩ := seventhByte_fields hn cmd last
  have hlen : ((padCall s.cfg x).map charByte).length = s.cfg.callLen := by rw [List.length_map, padCall_length]
  have hexec := exec_adec_append hf hs hlen (seventhByte n cmd last) rep
  rwa [readBack_padCall hx, hssid, htop, hmore] at hexec

end Sys2Proof.Machine

namespace Sys2Proof.Proofs.Address

open Sys2Proof.Machine

/-- Settles O34: the call splits into its callsign and its SSID, and ADEC reads both back from their bytes. -/
theorem addressRoundTrip : Obligations.AddressRoundTrip := by
  intro x call n cmd last s hf hs hx hn hcall
  have haenc := exec_aenc_of_split hf (splitCall_of_plain hx hn hcall) cmd last
  have hadec := exec_adec_addressBytes (s := finish (.ok (.bytes (addressBytes s.cfg x n cmd last))) s) hf hs hx hn
    cmd last
  refine ⟨_, _, _, _, haenc, rfl, hadec false, ?_, hadec true, ?_⟩ <;> simp [ssidText]

/-- Settles O32, from the two shapes of a split: `splitCall_of_noHyphen` and `splitCall_at_hyphen`. -/
theorem aencEncodes : Obligations.AencEncodes := by
  intro call cmd last s hf
  refine ⟨fun h => exec_aenc_of_split hf (splitCall_of_noHyphen h) cmd last, ?_⟩
  rintro cs sfx rfl hcs
  have hsplit := splitCall_at_hyphen hcs sfx
  constructor
  · intro hgood
    exact exec_aenc_of_split hf (hsplit.trans (if_pos hgood)) cmd last
  · intro hbad
    exact exec_aenc_of_badSuffix hf (hsplit.trans (if_neg hbad)) cmd last

/-- Settles O33: the answer of `exec_adec_append` with the fields of the last byte written out. -/
theorem adecDecodes : Obligations.AdecDecodes := by
  refine ⟨fun chars b7 rep s hf hs hlen => ?_, fun a rep s h => exec_adec_of_length_ne h rep, rfl, rfl⟩
  rw [exec_adec_append hf hs hlen, ssidText_ssidOf]
  simp only [Bool.and_eq_true]
  rfl

end Sys2Proof.Proofs.Address
end

section
/-! PROOF. The control byte (42_control.md R160 to R178): its bits 0 and 1 fix its form and the masked selector its type,
and the row of a form is CCLASS of the kind that the form classifies as. -/

namespace Sys2Proof.Machine

/-! ## Which kinds bear a payload (R178) -/

theorem carriesPayload_i (ns nr : BitVec 3) (pf : BitVec 1) : carriesPayload (.i ns nr pf) = true := rfl

theorem carriesPayload_s (ty : SType) (nr : BitVec 3) (pf : BitVec 1) : carriesPayload (.s ty nr pf) = false := rfl

theorem carriesPayload_u_iff (ty : UType) (pf : BitVec 1) : carriesPayload (.u ty pf) = true ↔ ty = .ui := by
  cases ty <;> simp [carriesPayload]

/-! ## CCLASS and the rows -/

theorem endKind_of_running {s : State} (hf : s.fatal = false) (k : Kind) :
    endKind k s = .next (finish (.ok (.kind k)) s) := whenRunning_of_running hf _

theorem exec_cclass (c : Byte) (s : State) : exec (.cclass c) s = endKind (classify c) s := rfl

theorem exec_ctrlI (ns nr : BitVec 3) (pf : BitVec 1) (s : State) :
    exec (.ctrlI ns nr pf) s = endKind (.i ns nr pf) s := rfl

theorem exec_sRow (ty : SType) (nr : BitVec 3) (pf : BitVec 1) (ss : BitVec 2) (s : State) :
    exec (sRow ty nr pf ss) s = endKind (.s ty nr pf) s := by
  cases ty <;> rfl

theorem exec_uRow (ty : UType) (mHi : BitVec 3) (pf : BitVec 1) (mLo : BitVec 2) (s : State) :
    exec (uRow ty mHi pf mLo) s = endKind (.u ty pf) s := by
  cases ty <;> rfl

/-- R163 to R166: each named S type with its row. -/
def sRows (nr : BitVec 3) (pf : BitVec 1) : List (Instr × SType) :=
  [SType.rr, .rnr, .rej, .srej].map fun ty => (sRow ty nr pf 0, ty)

/-- R168 to R176: each named U type with its row. -/
def uRows (pf : BitVec 1) : List (Instr × UType) :=
  [UType.sabme, .sabm, .disc, .dm, .ua, .frmr, .ui, .xid, .test].map fun ty => (uRow ty 0 pf 0, ty)

theorem exec_of_mem_sRows {nr : BitVec 3} {pf : BitVec 1} {i : Instr} {ty : SType} (h : (i, ty) ∈ sRows nr pf)
    (s : State) : exec i s = endKind (.s ty nr pf) s := by
  obtain ⟨_, -, hrow⟩ := List.mem_map.mp h
  cases hrow
  exact exec_sRow ty nr pf 0 s

theorem exec_of_mem_uRows {pf : BitVec 1} {i : Instr} {ty : UType} (h : (i, ty) ∈ uRows pf) (s : State) :
    exec i s = endKind (.u ty pf) s := by
  obtain ⟨_, -, hrow⟩ := List.mem_map.mp h
  cases hrow
  exact exec_uRow ty 0 pf 0 s

/-! ## The form of a byte, by its bits 0 and 1 (R161) -/

theorem classify_of_iBits {c : Byte} (h0 : c.getLsbD 0 = false) :
    classify c = .i (fieldNs c) (fieldNr c) (fieldPf c) := by
  rw [classify, if_pos h0]

theorem classify_of_sBits {c : Byte} (h0 : c.getLsbD 0 = true) (h1 : c.getLsbD 1 = false) :
    classify c = .s (sTypeOf (sSelector c)) (fieldNr c) (fieldPf c) := by
  rw [classify, if_neg (by rw [h0]; decide), if_pos h1]

theorem classify_of_uBits {c : Byte} (h0 : c.getLsbD 0 = true) (h1 : c.getLsbD 1 = true) :
    classify c = .u (uTypeOf (uSelector c)) (fieldPf c) := by
  rw [classify, if_neg (by rw [h0]; decide), if_neg (by rw [h1]; decide)]

theorem classify_iByte (ns nr : BitVec 3) (pf : BitVec 1) : classify (iByte ns nr pf) = .i ns nr pf := by
  obtain ⟨h0, hns, hnr, hpf⟩ := iByte_fields ns nr pf
  rw [classify_of_iBits h0, hns, hnr, hpf]

theorem classify_sByte (ss : BitVec 2) (nr : BitVec 3) (pf : BitVec 1) :
    classify (sByte (sSelOfBits ss) nr pf) = .s (sTypeOf (sSelOfBits ss)) nr pf := by
  obtain ⟨h0, h1, hsel, hnr, hpf, -⟩ := sByte_fields ss nr pf
  rw [classify_of_sBits h0 h1, hsel, hnr, hpf]

theorem classify_uByte (mHi : BitVec 3) (mLo : BitVec 2) (pf : BitVec 1) :
    classify (uByte (uSelOfBits mHi mLo) pf) = .u (uTypeOf (uSelOfBits mHi mLo)) pf := by
  obtain ⟨h0, h1, hsel, -, hpf, -⟩ := uByte_fields mHi mLo pf
  rw [classify_of_uBits h0 h1, hsel, hpf]

/-- R167: the four selectors that the form `rrrpSS01` has room for are all named. -/
theorem sTypeOf_sSelOfBits_ne_unknown (ss : BitVec 2) : sTypeOf (sSelOfBits ss) ≠ .unknown := by
  revert ss; decide

/-! ## The type of a byte, by its masked selector (R70, R71) -/

theorem getLsbD_of_masked {c mask sel : Byte} (h : c &&& mask = sel) {n : Nat} (hn : mask.getLsbD n = true) :
    c.getLsbD n = sel.getLsbD n := by
  rw [← h, BitVec.getLsbD_and, hn, Bool.and_true]

/-- R70: the named S types with their selectors. -/
def sTypes : List (Byte × SType) := [(0x01, .rr), (0x05, .rnr), (0x09, .rej), (0x0D, .srej)]

/-- R71: the named U types with their selectors. -/
def uTypes : List (Byte × UType) :=
  [(0x6F, .sabme), (0x2F, .sabm), (0x43, .disc), (0x0F, .dm), (0x63, .ua), (0x87, .frmr), (0x03, .ui), (0xAF, .xid),
    (0xE3, .test)]

/-- A named S selector has the S form, and `sTypeOf` reads its type. -/
theorem sTypes_facts :
    ∀ p ∈ sTypes, p.1.getLsbD 0 = true ∧ p.1.getLsbD 1 = false ∧ sTypeOf p.1 = p.2 := by decide

/-- A named U selector has the U form, and `uTypeOf` reads its type. -/
theorem uTypes_facts :
    ∀ p ∈ uTypes, p.1.getLsbD 0 = true ∧ p.1.getLsbD 1 = true ∧ uTypeOf p.1 = p.2 := by decide

theorem uTypeOf_eq_unknown {sel : Byte} (h : sel ∉ uTypes.map Prod.fst) : uTypeOf sel = .unknown := by
  obtain ⟨-, rfl⟩ | ⟨-, rfl⟩ | ⟨-, rfl⟩ | ⟨-, rfl⟩ | ⟨-, rfl⟩ | ⟨-, rfl⟩ | ⟨-, rfl⟩ | ⟨-, rfl⟩ | ⟨-, rfl⟩ | hunknown :=
    uTypeOf_cases sel
  case inr.inr.inr.inr.inr.inr.inr.inr.inr => exact hunknown
  all_goals exact absurd (by decide) h

theorem classify_of_mem_sTypes {c sel : Byte} {ty : SType} (hmem : (sel, ty) ∈ sTypes) (h : c &&& 0x0F = sel) :
    classify c = .s ty (fieldNr c) (fieldPf c) := by
  obtain ⟨h0, h1, hty⟩ := sTypes_facts _ hmem
  rw [classify_of_sBits ((getLsbD_of_masked h rfl).trans h0) ((getLsbD_of_masked h rfl).trans h1), sSelector, h, hty]

theorem classify_of_mem_uTypes {c sel : Byte} {ty : UType} (hmem : (sel, ty) ∈ uTypes) (h : c &&& 0xEF = sel) :
    classify c = .u ty (fieldPf c) := by
  obtain ⟨h0, h1, hty⟩ := uTypes_facts _ hmem
  rw [classify_of_uBits ((getLsbD_of_masked h rfl).trans h0) ((getLsbD_of_masked h rfl).trans h1), uSelector, h, hty]

/-- R177: a U byte of none of the nine selectors. -/
theorem classify_of_unnamed_u {c : Byte} (h : c &&& 0x03 = 0x03) (hsel : c &&& 0xEF ∉ uTypes.map Prod.fst) :
    classify c = .u .unknown (fieldPf c) := by
  rw [classify_of_uBits (getLsbD_of_masked h rfl) (getLsbD_of_masked h rfl), uSelector, uTypeOf_eq_unknown hsel]

end Sys2Proof.Machine

namespace Sys2Proof.Proofs.Control

open Sys2Proof.Machine

/-- Settles O38: a byte is of one of three forms, and each form's row ends in the kind that the form classifies as. -/
theorem cclassRunsItsRow : Obligations.CclassRunsItsRow := by
  intro c s
  obtain ⟨ns, nr, pf, rfl⟩ | ⟨ss, nr, pf, rfl⟩ | ⟨mHi, mLo, pf, rfl⟩ := ctrlByte_cases c
  · rw [exec_cclass, classify_iByte, decodeCtrl_iByte, exec_ctrlI]
  · rw [exec_cclass, classify_sByte, decodeCtrl_sByte, exec_sRow]
  · rw [exec_cclass, classify_uByte, decodeCtrl_uByte, exec_uRow]

/-- Settles O35: bit 0 clear is the I form, and a low nibble of `sTypes` fixes the S form and the type. -/
theorem classifyIS : Obligations.ClassifyIS := by
  refine ⟨carriesPayload_i, carriesPayload_s, fun s hf => ⟨?_, ?_, ?_, ?_⟩⟩
  · intro c h
    rw [exec_cclass, classify_of_iBits (getLsbD_of_masked h rfl)]
    exact endKind_of_running hf _
  · intro c sel ty hmem h
    rw [exec_cclass, classify_of_mem_sTypes hmem h]
    exact endKind_of_running hf _
  · intro ns nr pf
    exact endKind_of_running hf _
  · intro nr pf i ty hmem
    rw [exec_of_mem_sRows hmem]
    exact endKind_of_running hf _

/-- Settles O37: a masked byte of `uTypes` fixes the U form and the type, and any other U byte is of no named type. -/
theorem classifyU : Obligations.ClassifyU := by
  refine ⟨carriesPayload_u_iff, fun s hf => ⟨?_, ?_, ?_, ?_⟩⟩
  · intro c sel ty hmem h
    rw [exec_cclass, classify_of_mem_uTypes hmem h]
    exact endKind_of_running hf _
  · intro c h hsel
    rw [exec_cclass, classify_of_unnamed_u h hsel]
    exact endKind_of_running hf _
  · intro pf i ty hmem
    rw [exec_of_mem_uRows hmem]
    exact endKind_of_running hf _
  · intro mHi pf mLo _
    exact endKind_of_running hf _

/-- Settles O36: the row ends as every row does; of the three forms the S form alone gives an S kind, and its four
selectors are named. -/
theorem sUnknownRow : Obligations.SUnknownRow := by
  refine ⟨fun s nr pf ss hf => endKind_of_running hf _, fun c nr pf hc => ?_⟩
  obtain ⟨ns, nr', pf', rfl⟩ | ⟨ss, nr', pf', rfl⟩ | ⟨mHi, mLo, pf', rfl⟩ := ctrlByte_cases c
  · rw [classify_iByte] at hc; cases hc
  · rw [classify_sByte] at hc
    injection hc with hty
    exact sTypeOf_sSelOfBits_ne_unknown ss hty
  · rw [classify_uByte] at hc; cases hc

/-- Settles O39, kind by kind. -/
theorem payloadBearing : Obligations.PayloadBearing := by
  intro k
  cases k with
  | i ns nr pf => simp [carriesPayload_i]
  | s ty nr pf => simp [carriesPayload_s]
  | u ty pf => simp [carriesPayload_u_iff]

end Sys2Proof.Proofs.Control
end

section
/-! PROOF. One report per delivered frame (43_interpreter.md R203, 44_session.md R224): a history that is well reported
may be followed by any other that is, and every operation appends one. -/

namespace Sys2Proof.Machine

/-! ## Histories that are well reported -/

/-- Behind a well-reported history no `Frame` event waits for its report. -/
theorem reported_append {c : Config} {es : List Event} (h : reported c es = true) (fs : List Event) :
    reported c (es ++ fs) = reported c fs := by
  induction es using reported.induct with
  | case1 => rfl
  | case2 f e rest ih =>
    simp only [reported, Bool.and_eq_true] at h
    obtain ⟨hreport, hrest⟩ := h
    simp only [List.cons_append, reported, hreport, Bool.and_self, Bool.true_and, ih hrest]
  | case6 rest ih | case11 _ rest ih | case13 _ _ rest ih => exact ih h
  | _ => cases h

theorem reported_delivery (c : Config) {f : List Byte} (h : f ≠ []) :
    reported c [.frame f, reportEvent (interpret c f)] = true := by
  simp [reported, h]

/-- The history of `s` is well reported under the parameters of `s`. -/
def WellReported (s : State) : Prop := reported s.cfg s.ev = true

theorem WellReported.append {s t : State} {es : List Event} (hs : WellReported s) (hcfg : t.cfg = s.cfg)
    (hev : t.ev = s.ev ++ es) (hes : reported s.cfg es = true) : WellReported t := by
  rw [WellReported, hcfg, hev, reported_append hs, hes]

/-! ## Received bytes -/

theorem wellReported_endFrame {s : State} (hs : WellReported s) : WellReported (endFrame s.cfg s) := by
  obtain ⟨-, h⟩ | ⟨hbuf, h⟩ := endFrame_cases s.cfg s <;> rw [h]
  · exact hs
  · exact hs.append (es := [.frame s.buf, reportEvent (interpret s.cfg s.buf)]) rfl (by simp [deliver])
      (reported_delivery s.cfg hbuf)

theorem wellReported_bufAppend {s : State} (hs : WellReported s) (c : Config) (b : Byte) :
    WellReported (bufAppend c b s) := by
  by_cases hl : s.buf.length = c.cap
  · rw [bufAppend_full hl]
    exact hs.append (es := [.log (.malformedFrame .overflow)]) rfl rfl rfl
  · rw [bufAppend_room hl]
    exact hs

theorem wellReported_rxBody {s : State} (hs : WellReported s) (b : Byte) : WellReported (rxBody s.cfg b s) := by
  obtain ⟨-, -, h⟩ | ⟨-, -, h⟩ | ⟨-, -, h⟩ | ⟨-, -, h⟩ | ⟨-, v, h⟩ := rxBody_cases s.cfg b s <;> rw [h]
  · exact hs
  · exact hs
  · exact wellReported_endFrame hs
  · exact hs
  · exact wellReported_bufAppend (s := setEsc false s) hs s.cfg v

theorem wellReported_rxBytes {s : State} (hs : WellReported s) (bs : List Byte) :
    WellReported (rxBytes s.cfg bs s) := by
  induction bs generalizing s with
  | nil => exact hs
  | cons b bs ih => simpa [rxBytes_cons] using ih (wellReported_rxBody hs b)

/-! ## Operations -/

theorem wellReported_pollAnswer {a : ReadAnswer} {s t : State} (hs : WellReported s)
    (h : pollAnswer s.cfg a s = .next t) : WellReported t := by
  obtain ⟨-, rfl⟩ | ⟨bs, -, rfl⟩ | ⟨-, rfl⟩ := pollAnswer_next_cases h
  · exact hs
  · exact wellReported_rxBytes hs bs
  · exact hs.append (es := [.log (.transportFailure .read)]) rfl rfl rfl

theorem wellReported_txWrite {bytes : List Byte} {w : WriteAnswer} {s t : State} (hs : WellReported s)
    (h : txWrite bytes w s = .next t) : WellReported t := by
  obtain ⟨-, rfl⟩ | ⟨k, -, rfl⟩ := txWrite_next_cases h
  · exact hs.append (es := [.write bytes bytes.length]) rfl rfl rfl
  · exact hs.append (es := [.write bytes k, .log (.transportFailure .write)]) rfl (by simp) rfl

/-- Every operation keeps a well-reported history well reported. -/
theorem wellReported_exec {i : Instr} {s t : State} (hd : s.cfg.distinct = true) (hs : WellReported s)
    (h : exec i s = .next t) : WellReported t := by
  obtain ⟨-, ⟨-, o, pads, draw, rfl⟩ | ⟨-, rfl⟩ | ⟨-, -, rfl⟩ | ⟨-, -, b, -, rfl⟩ | ⟨-, -, hp⟩ |
    ⟨tag, p, -, -, hw⟩⟩ := exec_next_cases hd h
  · exact hs
  · exact hs
  · exact hs
  · exact wellReported_rxBody hs b
  · obtain ⟨reads, draw, e⟩ := takeRead_eq s
    rw [e] at hp
    exact wellReported_pollAnswer (s := { s with reads := reads, draw := draw }) hs hp
  · obtain ⟨writes, draw, e⟩ := takeWrite_eq s
    rw [e] at hw
    exact wellReported_txWrite (s := { s with writes := writes, draw := draw }) hs hw

end Sys2Proof.Machine

namespace Sys2Proof.Proofs.OneLinePerFrame

open Sys2Proof.Machine

/-- Settles O58: a step that gives a next state ran an operation, and every operation appends nothing, a delivered frame
with its report, or events that are no report. -/
theorem oneLinePerFrame : Obligations.OneLinePerFrame := by
  refine ⟨fun _ => rfl, fun s t hs h => ?_⟩
  obtain ⟨hd, i, hi⟩ := step_eq_next h
  exact wellReported_exec hd hs hi

end Sys2Proof.Proofs.OneLinePerFrame
end

section
/-! PROOF. The Frame Interpreter (43_interpreter.md R190 to R204): FINTERP ends with what `interpret` answers, and
`interpret` goes through the address chain to the control byte or runs past the end of the frame. -/

namespace Sys2Proof.Machine

/-! ## FINTERP (R190) -/

/-- The outcome of FINTERP for each interpretation. -/
def interpOutcome : Interp → OpOutcome
  | .trace t => .ok (.trace t)
  | .nonData tag => .ok (.nonData tag)
  | .malformed r => .err (.malformedFrame r)

theorem execFinterp_eq (f : List Byte) (s : State) :
    execFinterp f s = whenRunning s (.next (finish (interpOutcome (interpret s.cfg f)) s)) := by
  cases h : interpret s.cfg f <;> simp [execFinterp, h, interpOutcome, endOk, endErr]

theorem exec_finterp_of_running {s : State} (hf : s.fatal = false) (f : List Byte) :
    exec (.finterp f) s = .next (finish (interpOutcome (interpret s.cfg f)) s) :=
  (execFinterp_eq f s).trans (whenRunning_of_running hf _)

theorem exec_finterp_eq_next {f : List Byte} {s t : State} (h : exec (.finterp f) s = .next t) :
    t = finish (interpOutcome (interpret s.cfg f)) s := by
  obtain ⟨-, ht⟩ := whenRunning_eq_next.mp ((execFinterp_eq f s).symm.trans h)
  cases ht
  rfl

/-! ## The tag and the first two addresses (R191 to R193) -/

theorem interpret_nil (c : Config) : interpret c [] = .malformed .empty := rfl

theorem interpret_of_tag_ne {c : Config} {tag : Byte} (h : tag ≠ c.dataTag) (p : List Byte) :
    interpret c (tag :: p) = .nonData tag := by
  rw [interpret, if_pos h]

theorem interpret_dataTag (c : Config) (p : List Byte) : interpret c (c.dataTag :: p) = interpretAddresses c p := by
  rw [interpret, if_neg (not_not_intro rfl)]

theorem interpretAddresses_of_short {c : Config} {p : List Byte} (h : p.length < 2 * c.addrLen) :
    interpretAddresses c p = .malformed .addressOverrun := by
  rw [interpretAddresses, if_pos h]

/-- What follows a destination and a source is theirs to interpret once the repeaters are walked. -/
theorem interpretAddresses_append {c : Config} {dst src : List Byte} (hdst : dst.length = c.addrLen)
    (hsrc : src.length = c.addrLen) (rest : List Byte) :
    interpretAddresses c (dst ++ src ++ rest) =
      (repeaters c (!eBit c src) rest).elim (.malformed .addressOverrun) fun walk =>
        interpretControl (headerText (decodeAddr c src false).1 (decodeAddr c dst false).1 walk.1)
          (resolveCr (cBit c dst) (cBit c src)) walk.2 := by
  have hlong : ¬ (dst ++ src ++ rest).length < 2 * c.addrLen := by
    simp only [List.length_append, hdst, hsrc]
    omega
  have htake : (dst ++ src ++ rest).take c.addrLen = dst := by simp [← hdst]
  have hmiddle : ((dst ++ src ++ rest).drop c.addrLen).take c.addrLen = src := by simp [← hdst, hdst.trans hsrc.symm]
  have hdrop : (dst ++ src ++ rest).drop (2 * c.addrLen) = rest := List.drop_left' (by simp [hdst, hsrc, two_mul])
  simp only [interpretAddresses, if_neg hlong, htake, hmiddle, hdrop, decodeAddr_more]
  cases repeaters c (!eBit c src) rest <;> rfl

/-! ## The repeaters (R194) -/

/-- One address of the walk: its extension bit says whether it is the last. -/
theorem walkRepeaters_succ_append {c : Config} {a : List Byte} (h : a.length = c.addrLen) (fuel : Nat)
    (rest : List Byte) :
    walkRepeaters c (fuel + 1) (a ++ rest) =
      if eBit c a then some ([(decodeAddr c a true).1], rest)
      else (walkRepeaters c fuel rest).map fun (reps, after) => ((decodeAddr c a true).1 :: reps, after) := by
  have hlong : ¬ (a ++ rest).length < c.addrLen := by
    rw [List.length_append, h]
    omega
  have htake : (a ++ rest).take c.addrLen = a := List.take_left' h
  have hdrop : (a ++ rest).drop c.addrLen = rest := List.drop_left' h
  simp only [walkRepeaters, if_neg hlong, htake, hdrop, decodeAddr_more]
  cases eBit c a
  · cases walkRepeaters c fuel rest <;> rfl
  · rfl

theorem eBit_nil (c : Config) : eBit c [] = false := by simp [eBit]

theorem not_endedChain_nil (c : Config) : ¬ EndedChain c [] := by simp [EndedChain, eBit_nil]

theorem endedChain_singleton {c : Config} {a : List Byte} :
    EndedChain c [a] ↔ a.length = c.addrLen ∧ eBit c a = true := by
  simp [EndedChain]

theorem endedChain_cons_cons {c : Config} {a b : List Byte} {chain : List (List Byte)} :
    EndedChain c (a :: b :: chain) ↔ a.length = c.addrLen ∧ eBit c a = false ∧ EndedChain c (b :: chain) := by
  simp only [EndedChain, List.forall_mem_cons, List.dropLast_cons_cons, List.getLastD_cons]
  tauto

/-- An address that ends a chain has the byte that says so. -/
theorem addrLen_pos_of_endedChain {c : Config} {chain : List (List Byte)} (h : EndedChain c chain) :
    0 < c.addrLen := by
  obtain ⟨hlen, -, hlast⟩ := h
  by_contra hzero
  have hempty : chain.getLastD [] = [] := by
    obtain hnil | hmem := List.mem_cons.mp (List.getLastD_mem_cons (l := chain) (a := []))
    · exact hnil
    · exact List.eq_nil_of_length_eq_zero ((hlen _ hmem).trans (Nat.eq_zero_of_not_pos hzero))
  rw [hempty, eBit_nil] at hlast
  cases hlast

/-- So the bytes of a chain are fuel enough for its walk. -/
theorem length_le_length_flatten_of_endedChain {c : Config} {chain : List (List Byte)} (h : EndedChain c chain) :
    chain.length ≤ chain.flatten.length := by
  have hpos := addrLen_pos_of_endedChain h
  obtain ⟨hlen, -, -⟩ := h
  have hsum := List.card_nsmul_le_sum (chain.map List.length) 1 (by simpa using fun a ha => (hlen a ha).symm ▸ hpos)
  simpa using hsum

theorem walkRepeaters_endedChain {c : Config} {chain : List (List Byte)} (h : EndedChain c chain) (rest : List Byte)
    {fuel : Nat} (hfuel : chain.length ≤ fuel) :
    walkRepeaters c fuel (chain.flatten ++ rest) = some (chain.map fun a => (decodeAddr c a true).1, rest) := by
  induction chain generalizing fuel with
  | nil => exact absurd h (not_endedChain_nil c)
  | cons a chain ih =>
    obtain ⟨fuel, rfl⟩ := Nat.exists_eq_add_of_le' (Nat.le_of_add_left_le hfuel)
    rw [List.flatten_cons, List.append_assoc]
    cases chain with
    | nil =>
      obtain ⟨hlen, hlast⟩ := endedChain_singleton.mp h
      rw [walkRepeaters_succ_append hlen, if_pos hlast]
      rfl
    | cons b chain =>
      obtain ⟨hlen, hmore, hchain⟩ := endedChain_cons_cons.mp h
      rw [walkRepeaters_succ_append hlen, hmore, ih hchain (Nat.le_of_succ_le_succ hfuel)]
      rfl

/-- The walk of R194 over the repeaters of a chain from the source on. -/
theorem repeaters_endedChain {c : Config} {src : List Byte} {reps : List (List Byte)}
    (h : EndedChain c (src :: reps)) (rest : List Byte) :
    repeaters c (!eBit c src) (reps.flatten ++ rest) = some (reps.map fun a => (decodeAddr c a true).1, rest) := by
  cases reps with
  | nil =>
    obtain ⟨-, hlast⟩ := endedChain_singleton.mp h
    rw [hlast]
    rfl
  | cons a reps =>
    obtain ⟨-, hmore, hchain⟩ := endedChain_cons_cons.mp h
    have hfuel := length_le_length_flatten_of_endedChain hchain
    rw [hmore]
    exact walkRepeaters_endedChain hchain rest (by rw [List.length_append]; omega)

/-! ## The header, the C bits and the control byte (R195 to R200) -/

theorem headerText_eq_headerOf (c : Config) (src dst : List Byte) (reps : List (List Byte)) :
    headerText (decodeAddr c src false).1 (decodeAddr c dst false).1 (reps.map fun a => (decodeAddr c a true).1) =
      headerOf c src dst reps := by
  simp [headerText, headerOf, List.flatMap, Function.comp_def]

theorem resolveCr_eq_crOf (c : Config) (dst src : List Byte) :
    resolveCr (cBit c dst) (cBit c src) = crOf c dst src := by
  cases hdst : cBit c dst <;> cases hsrc : cBit c src <;> simp [resolveCr, crOf, hdst, hsrc]

theorem pfLabel_classify (b : Byte) (cr : CmdResp) : pfLabel (classify b) cr = labelOf b cr := by
  cases cr <;> revert b <;> decide

theorem interpretControl_nil (header : Text) (cr : CmdResp) :
    interpretControl header cr [] = .malformed .noControl := rfl

theorem interpretControl_noPid {b : Byte} (h : bearsPayload b = true) (header : Text) (cr : CmdResp) :
    interpretControl header cr [b] = .malformed .noPid := by
  simp [interpretControl, carriesPayload_classify, h]

theorem interpretControl_payload {b : Byte} (h : bearsPayload b = true) (header : Text) (cr : CmdResp) (pid : Byte)
    (payload : List Byte) :
    interpretControl header cr (b :: pid :: payload) =
      .trace ⟨header, cr, classify b, labelOf b cr, some payload⟩ := by
  simp [interpretControl, carriesPayload_classify, h, pfLabel_classify]

theorem interpretControl_noPayload {b : Byte} (h : bearsPayload b = false) (header : Text) (cr : CmdResp)
    (after : List Byte) :
    interpretControl header cr (b :: after) = .trace ⟨header, cr, classify b, labelOf b cr, none⟩ := by
  simp [interpretControl, carriesPayload_classify, h, pfLabel_classify]

/-! ## Whole data frames -/

/-- A complete address chain is interpreted from the control byte on. -/
theorem interpret_endedChain {c : Config} {dst src : List Byte} {reps : List (List Byte)}
    (hdst : dst.length = c.addrLen) (h : EndedChain c (src :: reps)) (rest : List Byte) :
    interpret c (c.dataTag :: (dst ++ src ++ reps.flatten ++ rest)) =
      interpretControl (headerOf c src dst reps) (crOf c dst src) rest := by
  have hsrc : src.length = c.addrLen := by
    obtain ⟨hlen, -⟩ := h
    exact hlen src List.mem_cons_self
  rw [interpret_dataTag, List.append_assoc (dst ++ src), interpretAddresses_append hdst hsrc, repeaters_endedChain h,
    Option.elim_some, ← headerText_eq_headerOf, ← resolveCr_eq_crOf]

/-- A chain whose addresses all say more follow runs past the end of the frame. -/
theorem interpret_overrun {c : Config} {dst src rest : List Byte} {reps : List (List Byte)}
    (hdst : dst.length = c.addrLen) (h : ∀ a ∈ src :: reps, a.length = c.addrLen ∧ eBit c a = false)
    (hrest : rest.length < c.addrLen) :
    interpret c (c.dataTag :: (dst ++ src ++ reps.flatten ++ rest)) = .malformed .addressOverrun := by
  obtain ⟨⟨hsrc, hmore⟩, hreps⟩ := List.forall_mem_cons.mp h
  have hwalk : repeaters c (!eBit c src) (reps.flatten ++ rest) = none := by
    rw [hmore]
    exact walkRepeaters_none hreps hrest _
  rw [interpret_dataTag, List.append_assoc (dst ++ src), interpretAddresses_append hdst hsrc, hwalk, Option.elim_none]

end Sys2Proof.Machine

namespace Sys2Proof.Proofs.Interpreter

open Sys2Proof.Machine

/-- Settles O42: `interpret_endedChain` and the four things that may follow a complete chain. -/
theorem finterpInterprets : Obligations.FinterpInterprets := by
  intro s dst src reps hf hdst hchain
  have hnothing := interpret_endedChain hdst hchain []
  rw [List.append_nil] at hnothing
  refine ⟨?_, fun b hb => ?_, fun b pid payload hb => ?_, fun b after hb => ?_⟩
  · rw [exec_finterp_of_running hf, hnothing]
    rfl
  · rw [exec_finterp_of_running hf, interpret_endedChain hdst hchain, interpretControl_noPid hb]
    rfl
  · rw [exec_finterp_of_running hf, interpret_endedChain hdst hchain, interpretControl_payload hb]
    rfl
  · rw [exec_finterp_of_running hf, interpret_endedChain hdst hchain, interpretControl_noPayload hb]
    rfl

/-- Settles O41, by the overrun of the repeater walk. -/
theorem finterpOverrun : Obligations.FinterpOverrun := by
  intro s dst src reps rest hf hdst hchain hrest
  rw [exec_finterp_of_running hf, interpret_overrun hdst hchain hrest]
  rfl

/-- Settles O40: the checks of R191, R192 and R193 that come before an address is decoded. -/
theorem finterpEarlyEnds : Obligations.FinterpEarlyEnds := by
  refine fun s hf => ⟨exec_finterp_of_running hf [], fun tag p htag => ?_, fun p hp => ?_⟩
  · rw [exec_finterp_of_running hf, interpret_of_tag_ne htag]
    rfl
  · rw [exec_finterp_of_running hf, interpret_dataTag, interpretAddresses_of_short hp]
    rfl

/-- Settles O43: both runs answer what `interpret` does of the frame, and FINTERP ends without an event. -/
theorem finterpIsPure : Obligations.FinterpIsPure := by
  intro f s s' t t' hcfg h h'
  obtain rfl := exec_finterp_eq_next h
  obtain rfl := exec_finterp_eq_next h'
  rw [hcfg]
  exact ⟨rfl, rfl⟩

end Sys2Proof.Proofs.Interpreter
end

section
/-! PROOF. BUILD (43_interpreter.md R205 to R209): the frame it composes from the two addresses it encodes and the padding
it draws, and what the interpreter reads there. -/

namespace Sys2Proof.Machine

/-! ## Padding (R207) -/

/-- Injected padding bytes in range are the ones drawn, in order. -/
theorem padBytes_of_injected {c : Config} {m : Nat} {s : State}
    (h : ∀ r ∈ s.pads.take m, c.padLo ≤ r ∧ r ≤ c.padHi) (hm : m ≤ s.pads.length) :
    padBytes c m s = s.pads.take m := by
  induction m generalizing s with
  | zero => simp [padBytes]
  | succ m ih =>
    obtain ⟨b, rest, hpads⟩ := List.exists_cons_of_length_pos (Nat.lt_of_lt_of_le (Nat.succ_pos m) hm)
    rw [hpads, List.take_succ_cons] at h ⊢
    obtain ⟨⟨hlo, hhi⟩, hrest⟩ := List.forall_mem_cons.mp h
    have hbyte : padByte c s = b := by simp only [padByte, hpads, legalPad_of_range hlo hhi]
    have hnext : (takePad s).pads = rest := by simp only [takePad, hpads]
    rw [padBytes, hbyte, ih (by rwa [hnext]) (by rw [hnext]; simpa [hpads] using hm), hnext]

/-! ## How BUILD ends (R206, R208) -/

theorem exec_build_of_encoded {dst src : Text} {lit d a : List Byte} {total : Nat} {s : State} (hf : s.fatal = false)
    (hd : encodeAddr s.cfg dst true false = some d) (ha : encodeAddr s.cfg src false true = some a) :
    exec (.build dst src lit total) s =
      .next (finish (.ok (.bytes (buildFrame s.cfg d a lit (padBytes s.cfg (padCount lit total) s))))
        (takePads (padCount lit total) s)) := by
  simp only [exec, execBuild, whenRunning_of_running hf, hd, ha, endOk]

theorem exec_build_of_badAddress {dst src : Text} {s : State} (hf : s.fatal = false)
    (h : encodeAddr s.cfg dst true false = none ∨ encodeAddr s.cfg src false true = none) (lit : List Byte)
    (total : Nat) : exec (.build dst src lit total) s = .next (finish (.err .invalidAddress) s) := by
  cases hd : encodeAddr s.cfg dst true false with
  | none => simp only [exec, execBuild, whenRunning_of_running hf, hd, endErr]
  | some d =>
    have ha : encodeAddr s.cfg src false true = none := by simpa [hd] using h
    simp only [exec, execBuild, whenRunning_of_running hf, hd, ha, endErr]

/-- When BUILD answers bytes, both addresses encode and the bytes are the frame of `buildFrame`. -/
theorem exec_build_ok {dst src : Text} {lit p : List Byte} {total : Nat} {s t : State}
    (h : exec (.build dst src lit total) s = .next t) (hp : t.out = some (.ok (.bytes p))) :
    ∃ d a, encodeAddr s.cfg dst true false = some d ∧ encodeAddr s.cfg src false true = some a ∧
      p = buildFrame s.cfg d a lit (padBytes s.cfg (padCount lit total) s) := by
  obtain ⟨hf, -⟩ := exec_ends h
  by_cases hbad : encodeAddr s.cfg dst true false = none ∨ encodeAddr s.cfg src false true = none
  · cases (exec_build_of_badAddress hf hbad lit total).symm.trans h
    cases hp
  · obtain ⟨hd, ha⟩ := not_or.mp hbad
    obtain ⟨d, hd⟩ := Option.ne_none_iff_exists'.mp hd
    obtain ⟨a, ha⟩ := Option.ne_none_iff_exists'.mp ha
    cases (exec_build_of_encoded hf hd ha).symm.trans h
    cases hp
    exact ⟨d, a, hd, ha, rfl⟩

/-! ## The bits of an encoded address (R134, R141) -/

theorem splitCall_ssid_le {call cs : Text} {ssid : Nat} (h : splitCall call = some (cs, ssid)) : ssid ≤ 15 := by
  simp only [splitCall] at h
  split_ifs at h with hhyphen hbad
  · cases h
    simp only [not_or] at hbad
    obtain ⟨-, -, hle⟩ := hbad
    exact Nat.not_lt.mp hle
  · cases h
    exact Nat.zero_le 15

theorem lastByte_append {c : Config} {chars : List Byte} (h : chars.length = c.callLen) (b7 : Byte) :
    lastByte c (chars ++ [b7]) = b7 := by
  simp [lastByte, ← h]

/-- The C bit and the extension bit of an encoded address are the ones it was encoded with. -/
theorem encodeAddr_bits {c : Config} {call : Text} {cmd last : Bool} {a : List Byte}
    (h : encodeAddr c call cmd last = some a) : cBit c a = cmd ∧ eBit c a = last := by
  cases hsplit : splitCall call with
  | none => simp [encodeAddr, hsplit] at h
  | some split =>
    obtain ⟨cs, ssid⟩ := split
    obtain rfl : addressBytes c cs ssid cmd last = a := by simpa [encodeAddr_of_split hsplit] using h
    obtain ⟨-, htop, hmore⟩ := seventhByte_fields (splitCall_ssid_le hsplit) cmd last
    have hlen : ((padCall c cs).map charByte).length = c.callLen := by rw [List.length_map, padCall_length]
    have hbyte : lastByte c (addressBytes c cs ssid cmd last) = seventhByte ssid cmd last := lastByte_append hlen _
    have hcBit : cBit c (addressBytes c cs ssid cmd last) = topBit (seventhByte ssid cmd last) := hbyte ▸ rfl
    have heBit : moreFollows (seventhByte ssid cmd last) = !eBit c (addressBytes c cs ssid cmd last) :=
      hbyte ▸ decodeAddr_more c _ false
    exact ⟨hcBit.trans htop, Bool.not_inj (heBit.symm.trans hmore)⟩

/-- R209: the interpreter reads a built frame as a UI frame without repeaters. -/
theorem interpret_buildFrame {c : Config} {d a : List Byte} (hd : d.length = c.addrLen) (ha : a.length = c.addrLen)
    (hlast : eBit c a = true) (hui : c.ctrlUi = 0x03) (lit pad : List Byte) :
    interpret c (c.dataTag :: buildFrame c d a lit pad) =
      .trace ⟨headerOf c a d [], crOf c d a, .u .ui 0, .none, some (lit ++ pad)⟩ := by
  have hframe : buildFrame c d a lit pad = d ++ a ++ [].flatten ++ 0x03 :: c.pidNone :: (lit ++ pad) := by
    simp [buildFrame, hui]
  rw [hframe, interpret_endedChain hd (endedChain_singleton.mpr ⟨ha, hlast⟩), interpretControl_payload rfl]
  rfl

end Sys2Proof.Machine

namespace Sys2Proof.Proofs.Build

open Sys2Proof.Machine

/-- Settles O46: the two addresses BUILD encodes are a complete chain with the bits of a command. -/
theorem buildInterpretLaw : Obligations.BuildInterpretLaw := by
  intro dst src lit total s t p hshape hui h hp
  obtain ⟨d, a, hd, ha, rfl⟩ := exec_build_ok h hp
  obtain ⟨hdCmd, -⟩ := encodeAddr_bits hd
  obtain ⟨haCmd, haLast⟩ := encodeAddr_bits ha
  have hdLen : d.length = s.cfg.addrLen := (encodeAddr_length hd).trans hshape.symm
  have haLen : a.length = s.cfg.addrLen := (encodeAddr_length ha).trans hshape.symm
  have hcr : crOf s.cfg d a = .command := by simp [crOf, hdCmd, haCmd]
  refine ⟨d, a, _, hd, ha, rfl, rfl, padBytes_length .., ?_⟩
  rw [interpret_buildFrame hdLen haLen haLast hui, hcr]
  simp [headerOf, padCount]

/-- Settles O44: the length and the range of the padding, and the injected bytes that `padBytes` takes. -/
theorem buildComposes : Obligations.BuildComposes := by
  intro dst src lit total s d a hf hrange hd ha
  refine ⟨_, padBytes s.cfg (total - lit.length) s, exec_build_of_encoded hf hd ha, rfl, padBytes_length ..,
    padBytes_range hrange _ s, ?_, padBytes_of_injected⟩
  simp only [List.length_append, List.length_cons, List.length_nil, encodeAddr_length hd, encodeAddr_length ha,
    padBytes_length]
  omega

/-- Settles O45: BUILD ends at the address that does not encode, before it draws. -/
theorem buildRejects : Obligations.BuildRejects :=
  fun _ _ lit total _ hf h => exec_build_of_badAddress hf h lit total

end Sys2Proof.Proofs.Build
end

section
/-! PROOF. The lines of the trace output that are not trace records (43_interpreter.md R202). -/

namespace Sys2Proof.Machine

theorem hexDigit_eq_getD {d : Nat} (h : d < 16) : hexDigit d = (ascii "0123456789ABCDEF").getD d 0 := by
  revert d; decide

theorem hex2_eq (b : Byte) :
    hex2 b =
      [(ascii "0123456789ABCDEF").getD (b.toNat / 16) 0, (ascii "0123456789ABCDEF").getD (b.toNat % 16) 0] := by
  rw [hex2, hexDigit_eq_getD (by omega), hexDigit_eq_getD (by omega)]

end Sys2Proof.Machine

namespace Sys2Proof.Proofs.ReportLines

open Sys2Proof.Machine

/-- Settles O60: the two digits of a tag are those of `hex2`, and the other lines are evaluated. -/
theorem reportLines : Obligations.ReportLines := by
  refine ⟨fun tag => ?_, rfl, rfl, rfl, rfl, rfl, rfl, rfl⟩
  rw [← hex2_eq]
  rfl

end Sys2Proof.Proofs.ReportLines
end

section
/-! PROOF. Who needs a session (44_session.md R225): every well-formed instruction runs behind one of the two
preconditions, and the one without a session always answers a next state. -/

namespace Sys2Proof.Machine

/-- A well-formed instruction that needs a session is guarded by `whenOpen`. -/
theorem exec_eq_whenOpen {i : Instr} {s : State} (hwf : wellFormed s.cfg i = true) (hneeds : needsSession i = true) :
    ∃ k, exec i s = whenOpen s k := by
  cases i
  case closeSession | rxByte | rxPoll | txFrame => exact ⟨_, rfl⟩
  case rxIdleFend | rxInFrameFend | rxInFrameFesc | rxInFrameTfend | rxInFrameTfesc => exact ⟨_, rfl⟩
  case rxIdleOther b =>
    have hclass : classOf s.cfg b ≠ .fend := bne_iff_ne.mp hwf
    exact ⟨_, if_neg hclass⟩
  case rxInFrameOther b =>
    have hclass : classOf s.cfg b = .other := eq_of_beq hwf
    exact ⟨_, if_pos hclass⟩
  all_goals cases hneeds

/-- A well-formed instruction that needs no session answers a next state behind `whenRunning`. -/
theorem exec_eq_whenRunning_next {i : Instr} {s : State} (hwf : wellFormed s.cfg i = true)
    (hcode : isReservedOp i = false) (hneeds : needsSession i = false) :
    ∃ t, exec i s = whenRunning s (.next t) := by
  cases i
  case openSession | cclass => exact ⟨_, rfl⟩
  case ctrlI | ctrlRR | ctrlRNR | ctrlREJ | ctrlSREJ | ctrlSUnknown => exact ⟨_, rfl⟩
  case ctrlSABME | ctrlSABM | ctrlDISC | ctrlDM | ctrlUA | ctrlFRMR | ctrlUI | ctrlXID | ctrlTEST | ctrlUUnknown =>
    exact ⟨_, rfl⟩
  case aenc call cmd last =>
    simp only [exec, execAenc]
    split <;> exact ⟨_, rfl⟩
  case adec a rep =>
    have hlength : a.length = s.cfg.addrLen := eq_of_beq hwf
    exact ⟨_, if_pos hlength⟩
  case finterp f => exact ⟨_, execFinterp_eq f s⟩
  case build dst src lit total =>
    simp only [exec, execBuild]
    split
    · exact ⟨_, rfl⟩
    · split <;> exact ⟨_, rfl⟩
  case reservedOp => cases hcode
  all_goals cases hneeds

end Sys2Proof.Machine

namespace Sys2Proof.Proofs.SessionRequirement

open Sys2Proof.Machine

/-- Settles O9: each instruction stands behind `whenOpen` or `whenRunning`, and both report `Halted` first. -/
theorem sessionRequirement : Obligations.SessionRequirement := by
  intro i s hwf hcode
  cases hneeds : needsSession i with
  | true =>
    obtain ⟨k, hk⟩ := exec_eq_whenOpen hwf hneeds
    rw [hk]
    exact ⟨fun hf => whenOpen_of_fatal hf k, fun hf _ ho => whenOpen_of_closed hf ho k, fun _ => nofun⟩
  | false =>
    obtain ⟨t, ht⟩ := exec_eq_whenRunning_next hwf hcode hneeds
    rw [ht]
    exact ⟨fun hf => whenRunning_of_fatal hf _, fun _ => nofun, fun hf _ => ⟨t, whenRunning_of_running hf _⟩⟩

end Sys2Proof.Proofs.SessionRequirement
end

section
/-! PROOF. The session (44_session.md R220 to R224): OPEN and CLOSE, the bounds of the transport's answers, what RXPOLL
does with each of them, and Deliver. -/

namespace Sys2Proof.Machine

/-! ## OPEN and CLOSE (R220, R222) -/

theorem exec_openSession (s : State) :
    exec .openSession s = whenRunning s (.next (finish (.ok .unit) (toIdle (setOpen true s)))) := rfl

theorem exec_closeSession (s : State) :
    exec .closeSession s = whenOpen s (.next (finish (.ok .unit) (toIdle (setOpen false s)))) := rfl

/-- OPEN and CLOSE write `open` and empty the framer. -/
theorem exec_session_next {i : Instr} {s t : State} (hi : i = .openSession ∨ i = .closeSession)
    (h : exec i s = .next t) : ∃ v, t = finish (.ok .unit) (toIdle (setOpen v s)) := by
  obtain rfl | rfl := hi
  · obtain ⟨-, ht⟩ := whenRunning_eq_next.mp h
    exact ⟨true, endOk_eq_next.mp ht⟩
  · obtain ⟨-, -, ht⟩ := whenOpen_eq_next.mp h
    exact ⟨false, endOk_eq_next.mp ht⟩

/-! ## The transport's answers (R221) -/

theorem readAllowed_legalRead (c : Config) (a : ReadAnswer) : ReadAllowed c (legalRead c a) := by
  cases a with
  | data bs =>
    have hle : (bs.take c.maxRead).length ≤ c.maxRead := List.length_take_le ..
    simp only [legalRead]
    cases htake : bs.take c.maxRead with
    | nil => trivial
    | cons b rest => exact ⟨Nat.succ_pos _, htake ▸ hle⟩
  | empty => trivial
  | readError => trivial

theorem legalRead_of_allowed {c : Config} {a : ReadAnswer} (h : ReadAllowed c a) : legalRead c a = a := by
  cases a with
  | data bs =>
    obtain ⟨hpos, hle⟩ := h
    exact legalRead_data (List.ne_nil_of_length_pos hpos) hle
  | empty => rfl
  | readError => rfl

theorem writeAllowed_legalWrite (n : Nat) (w : WriteAnswer) : WriteAllowed n (legalWrite n w) := by
  cases w with
  | written k => exact Nat.min_le_right k n
  | writeError => trivial

theorem legalWrite_of_allowed {n : Nat} {w : WriteAnswer} (h : WriteAllowed n w) : legalWrite n w = w := by
  cases w with
  | written k => exact legalWrite_written h
  | writeError => rfl

theorem readAllowed_readAnswer (c : Config) (s : State) : ReadAllowed c (readAnswer c s) := by
  unfold readAnswer
  split <;> exact readAllowed_legalRead c _

theorem writeAllowed_writeAnswer (n : Nat) (s : State) : WriteAllowed n (writeAnswer n s) := by
  unfold writeAnswer
  split <;> exact writeAllowed_legalWrite n _

/-- An injected answer that R221 allows is the answer to the next read. -/
theorem readAnswer_of_allowed {c : Config} {s : State} {a : ReadAnswer} (hhead : s.reads.head? = some a)
    (ha : ReadAllowed c a) : readAnswer c s = a := by
  obtain ⟨rest, hreads⟩ := List.head?_eq_some_iff.mp hhead
  simp only [readAnswer, hreads, legalRead_of_allowed ha]

/-- An injected answer that R221 allows is the answer to the next write. -/
theorem writeAnswer_of_allowed {n : Nat} {s : State} {w : WriteAnswer} (hhead : s.writes.head? = some w)
    (hw : WriteAllowed n w) : writeAnswer n s = w := by
  obtain ⟨rest, hwrites⟩ := List.head?_eq_some_iff.mp hhead
  simp only [writeAnswer, hwrites, legalWrite_of_allowed hw]

/-! ## RXPOLL (R223) -/

theorem exec_rxPoll_injected {s : State} {a : ReadAnswer} {rest : List ReadAnswer} (hf : s.fatal = false)
    (ho : s.isOpen = true) (hreads : s.reads = a :: rest) :
    exec .rxPoll s = pollAnswer s.cfg (legalRead s.cfg a) { s with reads := rest } := by
  simp [exec, execRxPoll, whenOpen_of_open hf ho, readAnswer, takeRead, hreads]

/-- Any `Data`, within R221's bounds or not, is received as its first `MAX_READ` bytes, also when these are none. -/
theorem pollAnswer_legalRead_data (c : Config) (bs : List Byte) (s : State) :
    pollAnswer c (legalRead c (.data bs)) s = endOk .unit (rxBytes c (bs.take c.maxRead) s) := by
  cases htake : bs.take c.maxRead <;> simp only [legalRead, htake, pollAnswer, rxBytes_nil]

theorem exec_rxPoll_injected_data {s : State} {bs : List Byte} {rest : List ReadAnswer} (hf : s.fatal = false)
    (ho : s.isOpen = true) (hreads : s.reads = .data bs :: rest) :
    exec .rxPoll s =
      .next { rxBytes s.cfg (bs.take s.cfg.maxRead) { s with reads := rest } with
                opi := s.opi + 1, out := some (.ok .unit) } := by
  have hopi := (sameRun_rxBytes s.cfg (bs.take s.cfg.maxRead) { s with reads := rest }).opi
  rw [exec_rxPoll_injected hf ho hreads, pollAnswer_legalRead_data, endOk, finish, hopi]

/-- RXPOLL writes `fatal`, the framer, the history, `opi`, the outcome and the draw of one read. -/
theorem exec_rxPoll_writes {s t : State} (h : exec .rxPoll s = .next t) :
    ∃ fatal rx esc buf ev opi out reads draw,
      t = { s with fatal := fatal, rx := rx, esc := esc, buf := buf, ev := ev, opi := opi, out := out,
                   reads := reads, draw := draw } := by
  obtain ⟨-, -, hp⟩ := whenOpen_eq_next.mp h
  obtain ⟨reads, draw, hdraw⟩ := takeRead_eq s
  rw [hdraw] at hp
  obtain ⟨-, rfl⟩ | ⟨bs, -, rfl⟩ | ⟨-, rfl⟩ := pollAnswer_next_cases hp
  · exact ⟨_, _, _, _, _, _, _, reads, draw, rfl⟩
  · obtain ⟨rx, esc, buf, es, hw⟩ := rxBytes_writes s.cfg bs s.rx s.esc s.buf
    rw [hw { s with reads := reads, draw := draw } rfl rfl rfl]
    exact ⟨_, rx, esc, buf, _, _, _, reads, draw, rfl⟩
  · exact ⟨_, _, _, _, _, _, _, reads, draw, rfl⟩

/-- An answer without bytes does not reach the framer. -/
theorem exec_rxPoll_sameFramer {s t : State} (hdata : ∀ bs, readAnswer s.cfg s ≠ .data bs)
    (h : exec .rxPoll s = .next t) : SameFramer s t := by
  obtain ⟨-, -, hp⟩ := whenOpen_eq_next.mp h
  obtain ⟨hopen, hrx, hesc, hbuf⟩ := sameFramer_takeRead s
  obtain ⟨-, rfl⟩ | ⟨bs, hbs, -⟩ | ⟨-, rfl⟩ := pollAnswer_next_cases hp
  · exact ⟨hopen, hrx, hesc, hbuf⟩
  · exact absurd hbs (hdata bs)
  · exact ⟨hopen, hrx, hesc, hbuf⟩

theorem readAnswer_ne_data {s : State} (h : s.reads.head? = some .empty ∨ s.reads.head? = some .readError)
    (bs : List Byte) : readAnswer s.cfg s ≠ .data bs := by
  obtain h | h := h <;> rw [readAnswer_of_allowed h trivial] <;> exact nofun

/-! ## Deliver (R224) -/

theorem deliver_eq (c : Config) (f : List Byte) (s : State) :
    deliver c f s = { s with ev := s.ev ++ [.frame f, reportEvent (interpret c f)] } := by
  simp [deliver, emit]

end Sys2Proof.Machine

namespace Sys2Proof.Proofs.Session

open Sys2Proof.Machine

/-- Settles O22: every answer is an image of `legalRead` or `legalWrite`, which stay in the bounds and fix what is in
them. -/
theorem answersAreBounded : Obligations.AnswersAreBounded :=
  ⟨readAllowed_readAnswer, fun _ _ _ => readAnswer_of_allowed, fun s n => writeAllowed_writeAnswer n s,
    fun _ _ _ => writeAnswer_of_allowed⟩

/-- Settles O55, by what OPEN, CLOSE and RXPOLL write. -/
theorem sessionFrame : Obligations.SessionFrame := by
  refine ⟨fun i s t hi h => ?_, fun s t h => ?_⟩
  · obtain ⟨v, rfl⟩ := exec_session_next hi h
    exact ⟨rfl, rfl, rfl, rfl, rfl, rfl, rfl, rfl, fun _ => rfl⟩
  · have hframer : s.reads.head? = some .empty ∨ s.reads.head? = some .readError → SameFramer s t :=
      fun hreads => exec_rxPoll_sameFramer (readAnswer_ne_data hreads) h
    obtain ⟨_, _, _, _, _, _, _, _, _, rfl⟩ := exec_rxPoll_writes h
    refine ⟨rfl, rfl, rfl, rfl, rfl, fun hreads => ?_⟩
    obtain ⟨-, hrx, hesc, hbuf⟩ := hframer hreads
    exact ⟨hrx, hesc, fun a => congrArg (·[a]?) hbuf⟩

/-- Settles O10: OPEN runs behind `whenRunning`. -/
theorem openSession : Obligations.OpenSession := by
  refine ⟨fun _ => rfl, fun s => ?_⟩
  rw [exec_openSession]
  exact ⟨fun hf => whenRunning_of_fatal hf _, fun hf => whenRunning_of_running hf _⟩

/-- Settles O11: CLOSE runs behind `whenOpen`. -/
theorem closeSession : Obligations.CloseSession := by
  refine ⟨fun _ => rfl, fun s => ?_⟩
  rw [exec_closeSession]
  exact ⟨fun hf => whenOpen_of_fatal hf _, fun hf ho => whenOpen_of_closed hf ho _,
    fun hf ho => whenOpen_of_open hf ho _⟩

/-- Settles O17: the report is that of the interpretation. -/
theorem deliverReports : Obligations.DeliverReports := by
  intro c f s
  rw [deliver_eq]
  refine ⟨fun t h => ?_, fun tag h => ?_, fun r h => ?_⟩ <;> rw [h] <;> rfl

/-- Settles O20: the injected answer is taken, and any `Data` is cut to `MAX_READ` bytes and received. -/
theorem rxPollAnswers : Obligations.RxPollAnswers := by
  intro s rest hf ho
  refine ⟨fun h => exec_rxPoll_injected hf ho h, fun bs h _ hle => ?_, fun bs h _ => exec_rxPoll_injected_data hf ho h,
    fun h => ?_, fun h => exec_rxPoll_injected hf ho h⟩
  · rw [exec_rxPoll_injected_data hf ho h, List.take_of_length_le hle]
  · rw [exec_rxPoll_injected_data hf ho h, List.take_nil, rxBytes_nil]

end Sys2Proof.Proofs.Session
end

section
/-! PROOF. The run of the host's program and its exit status (60_exceptions.md R244, R259; log entry 13): a step takes one
operation of the program, so a run goes on with as much fuel as the next state's own run has. -/

namespace Sys2Proof.Machine

/-! ## Where a run stands -/

theorem step_next_remaining {s t : State} (hleft : s.opi < s.prog.length) (h : step s = .next t) :
    s.prog.length - s.opi = (t.prog.length - t.opi) + 1 := by
  obtain ⟨-, i, hi⟩ := step_eq_next h
  obtain ⟨hopi, hprog, -⟩ := Proofs.OperationEnds.opiAdvances i s t hi
  rw [hopi, hprog]
  omega

theorem runHost_of_fatal {s : State} (hf : s.fatal = true) : runHost s = .ended s := runFor_of_fatal hf _

theorem runHost_of_programEnd {s : State} (hend : s.prog.length ≤ s.opi) : runHost s = .ended s := by
  rw [runHost, Nat.sub_eq_zero_of_le hend, runFor_zero]

theorem runHost_of_refused {s : State} {r : Refusal} (hf : s.fatal = false) (hleft : s.opi < s.prog.length)
    (h : step s = .refused r) : runHost s = .stopped s r := by
  obtain ⟨n, hn⟩ := Nat.exists_eq_add_one_of_ne_zero (Nat.sub_ne_zero_of_lt hleft)
  rw [runHost, hn, runFor_of_refused hf h]

theorem runHost_of_next {s t : State} (hf : s.fatal = false) (hleft : s.opi < s.prog.length)
    (h : step s = .next t) : runHost s = runHost t := by
  rw [runHost, step_next_remaining hleft h, runFor_of_next hf h, runHost]

/-! ## The exit status of an ended run -/

theorem exitStatus_ended_of_fatal {s : State} (hf : s.fatal = true) : exitStatus (.ended s) = some .failure := by
  rw [exitStatus_ended, if_pos hf]

theorem exitStatus_ended_of_running {s : State} (hf : s.fatal = false) : exitStatus (.ended s) = some .success := by
  rw [exitStatus_ended, hf, if_neg Bool.false_ne_true]

end Sys2Proof.Machine

namespace Sys2Proof.Proofs.ExitStatus

open Sys2Proof.Machine

/-- Settles O59: the status is read off the end of the run, and the run off its two ends and its two steps. -/
theorem exitStatusIsFatal : Obligations.ExitStatusIsFatal := by
  refine ⟨fun s t r hstopped => ?_, fun s t hended => ?_, fun s hover => ?_, fun s hf hleft => ?_⟩
  · rw [hstopped, exitStatus_stopped]
  · rw [hended]
    exact ⟨exitStatus_ended_of_fatal, exitStatus_ended_of_running⟩
  · exact hover.elim runHost_of_fatal runHost_of_programEnd
  · exact ⟨fun r => runHost_of_refused hf hleft, fun t => runHost_of_next hf hleft⟩

end Sys2Proof.Proofs.ExitStatus
end

section
/-! PROOF. The state at reset (70_reset_and_hazards.md R270) and the framer's hazards (R274 to R276). A phase is lost
where a delimiter leaves the framer in `Idle` before the bytes of a frame: they are discarded, and the delimiter behind
them opens a frame. -/

namespace Sys2Proof.Machine

/-! ## A delimiter met in the wrong phase (R274, R275) -/

/-- In `Idle` a stretch without a delimiter is discarded, so the delimiter that ends it opens a frame. -/
theorem rxBytes_idle_fend {c : Config} {bs : List Byte} {s : State} (h : c.fend ∉ bs) (hr : s.rx = .idle) :
    rxBytes c (bs ++ [c.fend]) s = startFrame s := by
  rw [rxBytes_append, rxBytes_idle h hr, rxBytes_cons, rxBytes_nil, rxBody_idle_fend hr]

/-- In an empty frame the delimiter ends the frame with no event, and the stretch behind it is received in `Idle`. -/
theorem rxBytes_fend_of_emptyFrame {c : Config} {bs : List Byte} {s : State} (hr : s.rx = .inFrame) (hb : s.buf = [])
    (h : c.fend ∉ bs) : rxBytes c (c.fend :: (bs ++ [c.fend])) s = startFrame s := by
  have hend : rxBody c c.fend s = toIdle s := by rw [rxBody_fend hr, endFrame, if_pos hb]
  rw [rxBytes_cons, hend, rxBytes_idle_fend h (toIdle_rx s)]
  rfl

theorem rxBody_stored_of_full {c : Config} {b : Byte} {s : State} (h : IsStored c s.rx b)
    (hfull : s.buf.length = c.cap) : rxBody c b s = emit (.log (.malformedFrame .overflow)) (toIdle s) := by
  obtain ⟨v, hv⟩ := rxBody_of_stored h
  rw [hv, bufAppend_full (s := setEsc false s) hfull]
  rfl

/-! ## An escape byte that no transposed byte follows (R112, R276) -/

/-- An escape byte ahead of the escaped form of a byte has no effect when that byte is not a transposed one: either
another escape byte follows, or a byte that clears the flag unread. -/
theorem rxBytes_fesc_escape {c : Config} {s : State} {b : Byte} (hd : c.distinct = true) (hr : s.rx = .inFrame)
    (htfend : b ≠ c.tfend) (htfesc : b ≠ c.tfesc) :
    rxBytes c (c.fesc :: escape c b) s = rxBytes c (escape c b) s := by
  have hr' : (escapeByte s).rx = .inFrame := hr
  rw [rxBytes_cons, rxBody_fesc hd hr]
  obtain ⟨v, -, e⟩ | ⟨hfend, hfesc, e⟩ := escape_pair_or_plain c b
  · simp only [e, rxBytes_cons, rxBody_fesc hd hr, rxBody_fesc hd hr']
    rfl
  · have hc := (classOf_eq_other hd).mpr ⟨hfend, hfesc, htfend, htfesc⟩
    simp only [e, rxBytes_cons, rxBody_data hr' hc, rxBody_data hr hc]
    rfl

/-- R276: the escape byte sent as a tag is lost, and the payload that fits is delivered without it. -/
theorem rxBytes_txEncode_fesc {c : Config} {s : State} {p : List Byte} (hd : c.distinct = true) (hr : s.rx = .idle)
    (hp : p ≠ []) (hroom : p.length ≤ c.cap) (htfend : p.head? ≠ some c.tfend) (htfesc : p.head? ≠ some c.tfesc) :
    rxBytes c (txEncode c c.fesc p) s = toIdle (deliver c p s) := by
  obtain ⟨b, p, rfl⟩ := List.exists_cons_of_ne_nil hp
  have hlost : rxBytes c (c.fesc :: escaped c (b :: p)) (startFrame s) = setBuf (b :: p) (startFrame s) := by
    rw [escaped_cons, ← List.cons_append, rxBytes_append,
      rxBytes_fesc_escape hd rfl (mt (congrArg some) htfend) (mt (congrArg some) htfesc),
      ← rxBytes_append, ← escaped_cons, rxBytes_escaped_room hd rfl rfl (by simpa using hroom)]
    rfl
  rw [txEncode_eq, rxBytes_cons, rxBody_idle_fend hr, ← List.cons_append, rxBytes_append, hlost, rxBytes_cons,
    rxBytes_nil, rxBody_fend rfl]
  rfl

end Sys2Proof.Machine

namespace Sys2Proof.Proofs.ResetAndHazards

open Sys2Proof.Machine

/-- Settles O8: each field is a literal of `State.resetWith`. -/
theorem resetState : Obligations.ResetState :=
  ⟨rfl, rfl, rfl, rfl, rfl, rfl, rfl⟩

/-- Settles O25: the opening delimiter ends the empty frame, and the rest is received in `Idle`. -/
theorem invertedPhaseLosesFrames : Obligations.InvertedPhaseLosesFrames := by
  intro c s tag p hd hr hb htag
  have hrest : c.fend ∉ tag :: escaped c p := by simp [htag.symm, fend_notMem_escaped hd p]
  rw [txEncode_eq]
  exact rxBytes_fend_of_emptyFrame hr hb hrest

/-- Settles O26: the overflow leaves `Idle`, so what is left of the long frame is discarded up to its delimiter. -/
theorem overflowInvertsPhase : Obligations.OverflowInvertsPhase := by
  intro c s v tail hr hfull hfend hfesc htail
  rw [rxBytes_cons, rxBody_stored_of_full ⟨hr, hfend, hfesc⟩ hfull, rxBytes_idle_fend htail rfl]
  rfl

/-- Settles O27: a delimiter as the tag ends the frame that was just opened; an escape byte as the tag has no effect. -/
theorem unescapedTagIsLost : Obligations.UnescapedTagIsLost := by
  intro c s p hd hr
  refine ⟨?_, fun hp hroom htfend htfesc => ?_⟩
  · rw [txEncode_eq, rxBytes_cons, rxBody_idle_fend hr,
      rxBytes_fend_of_emptyFrame (startFrame_rx s) (startFrame_buf s) (fend_notMem_escaped hd p)]
    rfl
  · rw [rxBytes_txEncode_fesc hd hr hp hroom htfend htfesc, deliver_eq]
    rfl

end Sys2Proof.Proofs.ResetAndHazards
end

section
/-! PROOF. The free answers of the transport (44_session.md R221; log entry 6): with nothing injected, RXPOLL and
TXFRAME do what they do for the drawn answer given by injection, and count the draw. -/

namespace Sys2Proof.Machine

/-! ## Operations beside the draw counter -/

theorem rxBytes_withDraw (c : Config) (bs : List Byte) (s : State) (d : Nat) :
    rxBytes c bs { s with draw := d } = { rxBytes c bs s with draw := d } := by
  obtain ⟨rx, esc, buf, es, hw⟩ := rxBytes_writes c bs s.rx s.esc s.buf
  rw [hw s rfl rfl rfl, hw { s with draw := d } rfl rfl rfl]

/-- RXPOLL completes on any answer, and what it does with one does not depend on the draw counter. -/
theorem pollAnswer_withDraw (c : Config) (a : ReadAnswer) (s : State) (d : Nat) :
    ∃ t, pollAnswer c a s = .next t ∧ pollAnswer c a { s with draw := d } = .next { t with draw := d } := by
  cases a with
  | empty => exact ⟨_, rfl, rfl⟩
  | data bs =>
    refine ⟨_, rfl, ?_⟩
    rw [pollAnswer, rxBytes_withDraw]
    rfl
  | readError => exact ⟨_, rfl, rfl⟩

/-- TXFRAME completes on any answer, and what it does with one does not depend on the draw counter. -/
theorem txWrite_withDraw (bytes : List Byte) (w : WriteAnswer) (s : State) (d : Nat) :
    ∃ t, txWrite bytes w s = .next t ∧ txWrite bytes w { s with draw := d } = .next { t with draw := d } := by
  cases w with
  | written k =>
    by_cases hk : k = bytes.length
    · exact ⟨_, if_pos hk, if_pos hk⟩
    · exact ⟨_, if_neg hk, if_neg hk⟩
  | writeError => exact ⟨_, rfl, rfl⟩

/-! ## An allowed answer injected, and a free one (R221) -/

/-- An injected answer that R221 allows is taken as it stands. -/
theorem exec_rxPoll_allowed {s : State} {a : ReadAnswer} (hf : s.fatal = false) (ho : s.isOpen = true)
    (hreads : s.reads = []) (ha : ReadAllowed s.cfg a) :
    exec .rxPoll { s with reads := [a] } = pollAnswer s.cfg a s := by
  have hs : { s with reads := [] } = s := by rw [← hreads]
  rw [exec_rxPoll_injected (s := { s with reads := [a] }) hf ho rfl, legalRead_of_allowed ha, hs]

theorem exec_rxPoll_free {s : State} (hf : s.fatal = false) (ho : s.isOpen = true) (hreads : s.reads = []) :
    exec .rxPoll s = pollAnswer s.cfg (readAnswer s.cfg s) { s with draw := s.draw + 1 } := by
  have hdraw : takeRead s = { s with draw := s.draw + 1 } := by simp only [takeRead, hreads]
  rw [← hdraw]
  exact whenOpen_of_open hf ho _

/-- An injected answer that R221 allows is taken as it stands. -/
theorem exec_txFrame_allowed {s : State} {w : WriteAnswer} {tag : Byte} {p : List Byte} (hf : s.fatal = false)
    (ho : s.isOpen = true) (hwrites : s.writes = []) (hw : WriteAllowed (txEncode s.cfg tag p).length w) :
    exec (.txFrame tag p) { s with writes := [w] } = txWrite (txEncode s.cfg tag p) w s := by
  have hs : { s with writes := [] } = s := by rw [← hwrites]
  rw [exec_txFrame_injected (s := { s with writes := [w] }) hf ho rfl, legalWrite_of_allowed hw, hs]

theorem exec_txFrame_free {s : State} (hf : s.fatal = false) (ho : s.isOpen = true) (hwrites : s.writes = [])
    (tag : Byte) (p : List Byte) :
    exec (.txFrame tag p) s =
      txWrite (txEncode s.cfg tag p) (writeAnswer (txEncode s.cfg tag p).length s) { s with draw := s.draw + 1 } := by
  have hdraw : takeWrite s = { s with draw := s.draw + 1 } := by simp only [takeWrite, hwrites]
  rw [← hdraw]
  exact whenOpen_of_open hf ho _

/-! ## The answers R221 allows, written out -/

theorem readAllowed_cases {c : Config} {a : ReadAnswer} (h : ReadAllowed c a) :
    a = .empty ∨ a = .readError ∨ ∃ bs, a = .data bs ∧ 1 ≤ bs.length ∧ bs.length ≤ c.maxRead := by
  cases a with
  | empty => exact .inl rfl
  | data bs => exact .inr (.inr ⟨bs, rfl, h⟩)
  | readError => exact .inr (.inl rfl)

theorem writeAllowed_cases {n : Nat} {w : WriteAnswer} (h : WriteAllowed n w) :
    w = .writeError ∨ ∃ k, w = .written k ∧ k ≤ n := by
  cases w with
  | written k => exact .inr ⟨k, rfl, h⟩
  | writeError => exact .inl rfl

end Sys2Proof.Machine

namespace Sys2Proof.Proofs.FreeAnswers

open Sys2Proof.Machine

/-- Settles O21: the allowed answer is the one drawn, which stays in R221's bounds. -/
theorem freeAnswersAreLegal : Obligations.FreeAnswersAreLegal := by
  refine ⟨fun s hf ho hreads => ?_, fun s tag p hf ho hwrites => ?_⟩
  · have ha : ReadAllowed s.cfg (readAnswer s.cfg s) := readAllowed_readAnswer s.cfg s
    obtain ⟨t, ht, hfree⟩ := pollAnswer_withDraw s.cfg (readAnswer s.cfg s) s (s.draw + 1)
    exact ⟨_, t, readAllowed_cases ha, (exec_rxPoll_allowed hf ho hreads ha).trans ht,
      (exec_rxPoll_free hf ho hreads).trans hfree⟩
  · have hw : WriteAllowed (txEncode s.cfg tag p).length (writeAnswer (txEncode s.cfg tag p).length s) :=
      writeAllowed_writeAnswer _ s
    obtain ⟨t, ht, hfree⟩ := txWrite_withDraw (txEncode s.cfg tag p) (writeAnswer _ s) s (s.draw + 1)
    exact ⟨_, t, writeAllowed_cases hw, (exec_txFrame_allowed hf ho hwrites hw).trans ht,
      (exec_txFrame_free hf ho hwrites tag p).trans hfree⟩

end Sys2Proof.Proofs.FreeAnswers
end

section
/-! PROOF. Where the model stops by its own choice: past the end of the host's program (log entry 4), and at a framer
row outside its framer state or its byte class (log entry 8). -/

namespace Sys2Proof.Machine

theorem step_of_fetch_none {s : State} (hd : s.cfg.distinct = true) (hnone : fetch s = none) :
    step s = .fault .noOperation := by
  obtain ⟨-, hstep⟩ | ⟨w, hw, -⟩ | ⟨w, i, hw, -⟩ := step_cases hd
  · exact hstep
  · cases hnone.symm.trans hw
  · cases hnone.symm.trans hw

/-- With a session, a row is refused in the framer state that is not its own. -/
theorem inState_of_ne {s : State} {st : RxState} (hf : s.fatal = false) (ho : s.isOpen = true) (hr : s.rx ≠ st)
    (s' : State) : inState st s s' = .refused .rowNotEnabled := by
  rw [inState, whenOpen_of_open hf ho, if_neg hr]

theorem exec_rxIdleOther_fend (s : State) : exec (.rxIdleOther s.cfg.fend) s = .refused .badOperand :=
  if_pos (classOf_fend s.cfg)

theorem exec_rxIdleOther_of_ne {s : State} {b : Byte} (hb : b ≠ s.cfg.fend) :
    exec (.rxIdleOther b) s = inState .idle s s :=
  if_neg (mt classOf_eq_fend.mp hb)

theorem exec_rxInFrameOther_special {s : State} {b : Byte} (hb : classOf s.cfg b ≠ .other) :
    exec (.rxInFrameOther b) s = .refused .badOperand :=
  if_neg hb

theorem exec_rxInFrameOther_other {s : State} {b : Byte} (hb : classOf s.cfg b = .other) :
    exec (.rxInFrameOther b) s = inState .inFrame s (dataByte s.cfg b s) :=
  if_pos hb

/-- R104 to R107: the rows of the special bytes run for `InFrame`. -/
theorem exec_special_eq_inState {i : Instr} (s : State)
    (hi : i ∈ [Instr.rxInFrameFend, .rxInFrameFesc, .rxInFrameTfend, .rxInFrameTfesc]) :
    ∃ s', exec i s = inState .inFrame s s' := by
  simp only [List.mem_cons, List.not_mem_nil, or_false] at hi
  obtain rfl | rfl | rfl | rfl := hi <;> exact ⟨_, rfl⟩

end Sys2Proof.Machine

namespace Sys2Proof.Proofs.ModelStops

open Sys2Proof.Machine

/-- Settles O3: of the three things a step can do, only the fault has no operation. -/
theorem stepStopsPastProgram : Obligations.StepStopsPastProgram :=
  fun _ hd hnone => step_of_fetch_none hd hnone

/-- Settles O19: a row checks the class of its byte first, and then, with a session, its framer state. -/
theorem framerRowsStopOutsideTheirState : Obligations.FramerRowsStopOutsideTheirState := by
  refine ⟨fun s hf ho => ⟨fun hr => ?_, fun hr => ?_⟩,
    fun s => ⟨exec_rxIdleOther_fend s, fun _ => exec_rxInFrameOther_special⟩⟩
  · have hne : s.rx ≠ .idle := by simp [hr]
    refine ⟨inState_of_ne hf ho hne _, fun b hb => ?_⟩
    rw [exec_rxIdleOther_of_ne hb, inState_of_ne hf ho hne]
  · have hne : s.rx ≠ .inFrame := by simp [hr]
    refine ⟨fun i hi => ?_, fun b hb => ?_⟩
    · obtain ⟨s', hs'⟩ := exec_special_eq_inState s hi
      rw [hs', inState_of_ne hf ho hne]
    · rw [exec_rxInFrameOther_other hb, inState_of_ne hf ho hne]

end Sys2Proof.Proofs.ModelStops
end
